-- ==== Sys2Proof/Word.lean ====
section
/-! DEFINITION. Words, bytes, channel indices, access widths, and the data of one bus access. -/

namespace Sys2Proof

/-- The smallest addressable unit of the address space (R31). -/
abbrev Byte := BitVec 8

/-- A 32-bit bus address or register value (R6: `ALEN` and `RLEN` are 32). Bit 0 is the least significant (R8). -/
abbrev Word := BitVec 32

/-- A channel index `c` in 0..15 (R6 `NCHAN` = 16, R12). -/
abbrev ChannelIx := Fin 16

/-- One value for each of the sixteen channels: the "fixed-size array addressed by channel index" of R6. -/
abbrev PerChannel (α : Type) := Vector α 16

/-- The four widths of a bus access (R6 `WIDTHS`). -/
inductive Width where
  | w8
  | w16
  | w32
  | w64
deriving DecidableEq, Repr

/-- The number of bytes `n = w/8` an access of the width touches (R33). -/
def Width.bytes : Width → Nat
  | .w8 => 1
  | .w16 => 2
  | .w32 => 4
  | .w64 => 8

/-- The data of one bus access. Its width is part of it: R79, "The value of a read has exactly the width of the
access". -/
inductive BusData where
  | b8 (v : BitVec 8)
  | b16 (v : BitVec 16)
  | b32 (v : BitVec 32)
  | b64 (v : BitVec 64)
deriving DecidableEq, Repr

/-- The width of the data of one access. -/
def BusData.width : BusData → Width
  | .b8 _ => .w8
  | .b16 _ => .w16
  | .b32 _ => .w32
  | .b64 _ => .w64

/-- The data as an unsigned number (R8: "no quantity in the block is signed"). -/
def BusData.toNat : BusData → Nat
  | .b8 v => v.toNat
  | .b16 v => v.toNat
  | .b32 v => v.toNat
  | .b64 v => v.toNat

end Sys2Proof
end

