-- ==== Sys2Proof/Config.lean ====
section
/-! DEFINITION. The configuration of R7 (the parameters the spec leaves OPEN), its well-formedness, the parameters the
spec decides, and the free values of R40. -/

namespace Sys2Proof

/-- The OPEN parameters of R7 (D8): base and size of the four regions of R32. The size of the DMA window is fixed at
`0x200`. A configuration is plain data that a state carries and no operation changes (log entry 1). -/
structure Config where
  ramBase : Word
  ramSize : Nat
  cramBase : Word
  cramSize : Nat
  devBase : Word
  devSize : Nat
  dmaBase : Word
deriving DecidableEq, Repr

/-- Size in bytes of the DMA register window (R7: "size fixed at `0x200`"). -/
def dmaWindowSize : Nat := 0x200

/-- `TERMINATOR` of R7 (D19): the next-pointer value that ends a list. -/
def terminator : BitVec 24 := 0xFFFFFF#24

/-- The vector-default configuration of R7. -/
def Config.vectorDefault : Config where
  ramBase := 0x00000000#32
  ramSize := 0x00200000
  cramBase := 0x1C000000#32
  cramSize := 0x00200000
  devBase := 0x1F800000#32
  devSize := 0x00001000
  dmaBase := 0x1F801000#32

/-- Two address ranges, each given by its base and size, share no byte. -/
def Config.apart (base : Word) (size : Nat) (base' : Word) (size' : Nat) : Bool :=
  decide (base.toNat + size ≤ base'.toNat) || decide (base'.toNat + size' ≤ base.toNat)

/-- Well-formedness of a configuration (R7): "the four regions are pairwise disjoint, none wraps past `0xFFFF_FFFF`,
each size is nonzero, and `DMA_BASE` is a multiple of `0x200`". -/
def Config.wf (cfg : Config) : Bool :=
  apart cfg.ramBase cfg.ramSize cfg.cramBase cfg.cramSize &&
  apart cfg.ramBase cfg.ramSize cfg.devBase cfg.devSize &&
  apart cfg.ramBase cfg.ramSize cfg.dmaBase dmaWindowSize &&
  apart cfg.cramBase cfg.cramSize cfg.devBase cfg.devSize &&
  apart cfg.cramBase cfg.cramSize cfg.dmaBase dmaWindowSize &&
  apart cfg.devBase cfg.devSize cfg.dmaBase dmaWindowSize &&
  decide (cfg.ramBase.toNat + cfg.ramSize ≤ 2 ^ 32) &&
  decide (cfg.cramBase.toNat + cfg.cramSize ≤ 2 ^ 32) &&
  decide (cfg.devBase.toNat + cfg.devSize ≤ 2 ^ 32) &&
  decide (cfg.dmaBase.toNat + dmaWindowSize ≤ 2 ^ 32) &&
  decide (0 < cfg.ramSize) && decide (0 < cfg.cramSize) && decide (0 < cfg.devSize) &&
  decide (cfg.dmaBase.toNat % 0x200 = 0)

/-- The two memories behind the Bus (R22): local RAM and coprocessor RAM, distinct arrays of bytes (R73). -/
inductive Bank where
  | ram
  | cram
deriving DecidableEq, Repr

/-- FREE VALUE (R40, log entry 3). `freeValue k` is the `k`-th draw: `draw(N)` is its low `N` bits. Nothing says what it
is, and no two draws are assumed to agree. The counter `k` is the field `draws` of the state. -/
opaque Config.freeValue : Nat → BitVec 64

/-- FREE VALUE (R26, R136, R40, log entry 4). `freeByte k b o` is what byte `o` of memory `b` holds after reset number
`k` until something writes it: "every byte is a `draw(8)` taken once at reset". The number `k` is the field `memDraw`
of the state. -/
opaque Config.freeByte : Nat → Bank → Nat → Byte

end Sys2Proof
end

