-- ==== Sys2Proof/Syntax.lean ====
section
/-! DEFINITION. The operations of the block: one constructor for each row of spec/opcode_table.json, in the table's
order. -/

namespace Sys2Proof

/-- The transfer direction of a control word (R16 `dir`): 0 = from device (device port to memory), 1 = to device
(memory to device port). -/
inductive Direction where
  | fromDevice
  | toDevice
deriving DecidableEq, Repr

/-- The sync mode of a control word (R16 `sync`, R63): "a DMA channel's transfer-termination policy" (R12), and the
reserved fourth value. -/
inductive SyncMode where
  | burst
  | block
  | list
  | reserved
deriving DecidableEq, Repr

/-- The operations (R2: "the word *operation* stands where a processor manual would say *instruction*"), one constructor
for each row of the opcode table (R65).

BUS rows: `a` is the byte address, `c` the channel index the address decodes to (R53), `v` the data written (R50), kept
also where the rule discards it. PORT rows carry no operand (R51). REG rows are what the control word of a tick's winner
`c` selects (R63), with the direction that R104 reads once at the unit's start. TAG rows are what the tag word at the
head of winner `c`'s list node selects (R62). -/
inductive Instr where
  /-- `RD8.DMA_BADACCESS` (R97). -/
  | rd8DmaBadaccess (a : Word)
  /-- `RD16.DMA_BADACCESS` (R97). -/
  | rd16DmaBadaccess (a : Word)
  /-- `RD64.DMA_BADACCESS` (R97). -/
  | rd64DmaBadaccess (a : Word)
  /-- `RD32.DMA_BADACCESS` (R97). -/
  | rd32DmaBadaccess (a : Word)
  /-- `WR8.DMA_BADACCESS` (R98). -/
  | wr8DmaBadaccess (a : Word) (v : BitVec 8)
  /-- `WR16.DMA_BADACCESS` (R98). -/
  | wr16DmaBadaccess (a : Word) (v : BitVec 16)
  /-- `WR64.DMA_BADACCESS` (R98). -/
  | wr64DmaBadaccess (a : Word) (v : BitVec 64)
  /-- `WR32.DMA_BADACCESS` (R98). -/
  | wr32DmaBadaccess (a : Word) (v : BitVec 32)
  /-- `RD32.CH_ADDR` (R81). -/
  | rd32ChAddr (c : ChannelIx)
  /-- `WR32.CH_ADDR` (R82). -/
  | wr32ChAddr (c : ChannelIx) (v : Word)
  /-- `RD32.CH_BCR` (R83). -/
  | rd32ChBcr (c : ChannelIx)
  /-- `WR32.CH_BCR` (R84). -/
  | wr32ChBcr (c : ChannelIx) (v : Word)
  /-- `RD32.CH_CTRL` (R85). -/
  | rd32ChCtrl (c : ChannelIx)
  /-- `WR32.CH_CTRL` (R86). -/
  | wr32ChCtrl (c : ChannelIx) (v : Word)
  /-- `RD32.DMA_RESERVED.SLOT` (R95). -/
  | rd32DmaReservedSlot (c : ChannelIx)
  /-- `WR32.DMA_RESERVED.SLOT` (R96). -/
  | wr32DmaReservedSlot (c : ChannelIx) (v : Word)
  /-- `RD32.DPCR` (R87). -/
  | rd32Dpcr
  /-- `WR32.DPCR` (R88). -/
  | wr32Dpcr (v : Word)
  /-- `RD32.DICR` (R91). -/
  | rd32Dicr
  /-- `WR32.DICR` (R92). -/
  | wr32Dicr (v : Word)
  /-- `RD32.DPCR2` (R89). -/
  | rd32Dpcr2
  /-- `WR32.DPCR2` (R90). -/
  | wr32Dpcr2 (v : Word)
  /-- `RD32.DICR2` (R93). -/
  | rd32Dicr2
  /-- `WR32.DICR2` (R94). -/
  | wr32Dicr2 (v : Word)
  /-- `RD32.DMA_RESERVED.HIGH` (R95). -/
  | rd32DmaReservedHigh (a : Word)
  /-- `WR32.DMA_RESERVED.HIGH` (R96). -/
  | wr32DmaReservedHigh (a : Word) (v : Word)
  /-- `RD8.RAM` (R71). -/
  | rd8Ram (a : Word)
  /-- `RD16.RAM` (R71). -/
  | rd16Ram (a : Word)
  /-- `RD32.RAM` (R71). -/
  | rd32Ram (a : Word)
  /-- `RD64.RAM` (R71). -/
  | rd64Ram (a : Word)
  /-- `WR8.RAM` (R72). -/
  | wr8Ram (a : Word) (v : BitVec 8)
  /-- `WR16.RAM` (R72). -/
  | wr16Ram (a : Word) (v : BitVec 16)
  /-- `WR32.RAM` (R72). -/
  | wr32Ram (a : Word) (v : BitVec 32)
  /-- `WR64.RAM` (R72). -/
  | wr64Ram (a : Word) (v : BitVec 64)
  /-- `RD8.CRAM` (R73). -/
  | rd8Cram (a : Word)
  /-- `RD16.CRAM` (R73). -/
  | rd16Cram (a : Word)
  /-- `RD32.CRAM` (R73). -/
  | rd32Cram (a : Word)
  /-- `RD64.CRAM` (R73). -/
  | rd64Cram (a : Word)
  /-- `WR8.CRAM` (R74). -/
  | wr8Cram (a : Word) (v : BitVec 8)
  /-- `WR16.CRAM` (R74). -/
  | wr16Cram (a : Word) (v : BitVec 16)
  /-- `WR32.CRAM` (R74). -/
  | wr32Cram (a : Word) (v : BitVec 32)
  /-- `WR64.CRAM` (R74). -/
  | wr64Cram (a : Word) (v : BitVec 64)
  /-- `RD8.DEV` (R75). -/
  | rd8Dev (a : Word)
  /-- `RD16.DEV` (R75). -/
  | rd16Dev (a : Word)
  /-- `RD32.DEV` (R75). -/
  | rd32Dev (a : Word)
  /-- `RD64.DEV` (R75). -/
  | rd64Dev (a : Word)
  /-- `WR8.DEV` (R76). -/
  | wr8Dev (a : Word) (v : BitVec 8)
  /-- `WR16.DEV` (R76). -/
  | wr16Dev (a : Word) (v : BitVec 16)
  /-- `WR32.DEV` (R76). -/
  | wr32Dev (a : Word) (v : BitVec 32)
  /-- `WR64.DEV` (R76). -/
  | wr64Dev (a : Word) (v : BitVec 64)
  /-- `RD8.UNMAPPED` (R77). -/
  | rd8Unmapped (a : Word)
  /-- `RD16.UNMAPPED` (R77). -/
  | rd16Unmapped (a : Word)
  /-- `RD32.UNMAPPED` (R77). -/
  | rd32Unmapped (a : Word)
  /-- `RD64.UNMAPPED` (R77). -/
  | rd64Unmapped (a : Word)
  /-- `WR8.UNMAPPED` (R78). -/
  | wr8Unmapped (a : Word) (v : BitVec 8)
  /-- `WR16.UNMAPPED` (R78). -/
  | wr16Unmapped (a : Word) (v : BitVec 16)
  /-- `WR32.UNMAPPED` (R78). -/
  | wr32Unmapped (a : Word) (v : BitVec 32)
  /-- `WR64.UNMAPPED` (R78). -/
  | wr64Unmapped (a : Word) (v : BitVec 64)
  /-- `TICK` (R101). -/
  | tick
  /-- `RESET` (R136). -/
  | reset
  /-- `INTACK` (R118). -/
  | intack
  /-- `UNIT.BURST` (R105). -/
  | unitBurst (c : ChannelIx) (dir : Direction)
  /-- `UNIT.BLOCK` (R106). -/
  | unitBlock (c : ChannelIx) (dir : Direction)
  /-- `UNIT.LIST` (R107). -/
  | unitList (c : ChannelIx) (dir : Direction)
  /-- `UNIT.RESERVED` (R108). -/
  | unitReserved (c : ChannelIx) (dir : Direction)
  /-- `TAG.LAST` (R107). -/
  | tagLast (c : ChannelIx) (len : Byte)
  /-- `TAG.LINK` (R107). -/
  | tagLink (c : ChannelIx) (len : Byte) (next : BitVec 24)
deriving DecidableEq, Repr

end Sys2Proof
end

