-- ==== Sys2Proof/Decode.lean ====
section
/-! DEFINITION. Decoding: byte order, field extraction, the region decode (R33, R52), the register map of the DMA window
(R53, R54), the unit and tag decodes (R62, R63), the decoder of operation records and the encoder beside it, and the
opcode table's BUS rows as data (R65). -/

namespace Sys2Proof

/-! ## Byte order (R35: little-endian everywhere) -/

/-- The `n` low bytes of `v`, the byte for the lowest address first (R35, R37). -/
def leBytes : Nat → Nat → List Byte
  | 0, _ => []
  | n + 1, v => BitVec.ofNat 8 v :: leBytes n (v / 256)

/-- The number the bytes stand for, lowest address first: the sum over `i` of byte `i` times `2^(8*i)` (R37). -/
def leValue : List Byte → Nat
  | [] => 0
  | b :: bs => b.toNat + 256 * leValue bs

/-- The data of an access of width `w` whose value is `v`, cut to the width. -/
def BusData.ofNat (w : Width) (v : Nat) : BusData :=
  match w with
  | .w8 => .b8 (BitVec.ofNat 8 v)
  | .w16 => .b16 (BitVec.ofNat 16 v)
  | .w32 => .b32 (BitVec.ofNat 32 v)
  | .w64 => .b64 (BitVec.ofNat 64 v)

/-- The bytes of the data of one access, the byte for the lowest address first (R37 `MemWrite`). -/
def BusData.bytes (d : BusData) : List Byte := leBytes d.width.bytes d.toNat

/-! ## First level: the region of an access (R33, R52) -/

/-- What the router finds at an access (R32, R52): one of the four kinds of region, or nothing. -/
inductive Region where
  | ram
  | cram
  | dev
  | dma
  | unmapped
deriving DecidableEq, Repr

/-- Every byte of the access of `n` bytes at `a` lies in `base .. base + size - 1`, computed without wrap (R33). -/
def allBytesIn (base : Word) (size : Nat) (a : Word) (n : Nat) : Bool :=
  decide (base.toNat ≤ a.toNat) && decide (a.toNat + n ≤ base.toNat + size)

/-- `region(a, n)` of R33: the region that contains all `n` bytes from `a`, computed without wrap-around; `unmapped`
where the bytes straddle regions, leave a region, or pass `0xFFFF_FFFF`. -/
def region (cfg : Config) (a : Word) (n : Nat) : Region :=
  if 2 ^ 32 < a.toNat + n then .unmapped
  else if allBytesIn cfg.ramBase cfg.ramSize a n then .ram
  else if allBytesIn cfg.cramBase cfg.cramSize a n then .cram
  else if allBytesIn cfg.devBase cfg.devSize a n then .dev
  else if allBytesIn cfg.dmaBase dmaWindowSize a n then .dma
  else .unmapped

/-- The region a memory answers in (R32). -/
def Bank.region : Bank → Region
  | .ram => .ram
  | .cram => .cram

/-- The base `B` of a memory's region (R37). -/
def Bank.base (cfg : Config) : Bank → Word
  | .ram => cfg.ramBase
  | .cram => cfg.cramBase

/-- The number of bytes of a memory (R13, R22). -/
def Bank.size (cfg : Config) : Bank → Nat
  | .ram => cfg.ramSize
  | .cram => cfg.cramSize

/-- The index `a - B` of a bus address in its memory's byte array (R37). -/
def bankOffset (cfg : Config) (b : Bank) (a : Word) : Nat := a.toNat - (b.base cfg).toNat

/-! ## Second level: the DMA window (R53, R54) -/

/-- `off = a - DMA_BASE` (R53). -/
def dmaOffset (cfg : Config) (a : Word) : Nat := a.toNat - cfg.dmaBase.toNat

/-- The address `DMA_BASE + off` of a register (R54). -/
def dmaAddress (cfg : Config) (off : Nat) : Word := cfg.dmaBase + BitVec.ofNat 32 off

/-- The channel index `c = off[7:4]` (R53, R55). -/
def offsetChannel (off : Nat) : ChannelIx := Fin.ofNat 16 (off / 16)

/-- The condition of the BADACCESS rows (R97, R98): all bytes in the DMA window, and the width is not 32 or the address
is not a multiple of 4. -/
def badAccess (cfg : Config) (w : Width) (a : Word) : Bool :=
  decide (region cfg a w.bytes = .dma) && (decide (w ≠ .w32) || decide (dmaOffset cfg a % 4 ≠ 0))

/-- The condition of the RESERVED.HIGH rows (R95, R96): a 4-aligned 32-bit access at an offset in `0x110 .. 0x1FC`. -/
def reservedHigh (cfg : Config) (a : Word) : Bool :=
  decide (region cfg a 4 = .dma) && decide (dmaOffset cfg a % 4 = 0) && decide (0x110 ≤ dmaOffset cfg a)

/-! ## The control word, the tag word and their selections (R16, R59, R62, R63) -/

/-- `BUSY = 0x0100_0000` (R59). -/
def ctrlBusyMask : Word := 0x01000000#32

/-- `busy = ctrl[24]` (R16). -/
def ctrlBusy (ctrl : Word) : Bool := ctrl.getLsbD 24

/-- `dir = ctrl[0]` (R16): 0 from device, 1 to device. -/
def ctrlDir (ctrl : Word) : Direction := if ctrl.getLsbD 0 then .toDevice else .fromDevice

/-- `sync = ctrl[10:9]` (R16, R63). -/
def ctrlSync (ctrl : Word) : SyncMode :=
  match ctrl.getLsbD 10, ctrl.getLsbD 9 with
  | false, false => .burst
  | false, true => .block
  | true, false => .list
  | true, true => .reserved

/-- The 2-bit code of a sync mode (R16: 0 burst, 1 block, 2 linked-list, 3 reserved). -/
def SyncMode.code : SyncMode → Nat
  | .burst => 0
  | .block => 1
  | .list => 2
  | .reserved => 3

/-- The bit of a direction (R16: 0 from device, 1 to device). -/
def Direction.code : Direction → Nat
  | .fromDevice => 0
  | .toDevice => 1

/-- The control word that starts a transfer, unknown bits 0: the composed values of R59. -/
def startControl (sync : SyncMode) (dir : Direction) : Word :=
  BitVec.ofNat 32 (0x01000000 + 0x200 * sync.code + dir.code)

/-- `len = tag[31:24]`, the payload's length in 32-bit words (R62). -/
def tagLen (tag : Word) : Byte := tag.extractLsb' 24 8

/-- `next = tag[23:0]`, the address of the next node's tag (R62). -/
def tagNext (tag : Word) : BitVec 24 := tag.extractLsb' 0 24

/-- The tag word of a length and a next-pointer (R62). -/
def tagWord (len : Byte) (next : BitVec 24) : Word := len ++ next

/-- The row of the REG format that the control word of a tick's winner selects (R63, R65). -/
def decodeUnit (c : ChannelIx) (ctrl : Word) : Instr :=
  match ctrlSync ctrl with
  | .burst => .unitBurst c (ctrlDir ctrl)
  | .block => .unitBlock c (ctrlDir ctrl)
  | .list => .unitList c (ctrlDir ctrl)
  | .reserved => .unitReserved c (ctrlDir ctrl)

/-- The row of the TAG format that a tag word selects (R62, R65): "Only the exact value `0xFF_FFFF` terminates". -/
def decodeTag (c : ChannelIx) (tag : Word) : Instr :=
  if tagNext tag = terminator then .tagLast c (tagLen tag) else .tagLink c (tagLen tag) (tagNext tag)

/-! ## The router's decode of a bus transaction (R52, R53) -/

/-- The row of a 32-bit, 4-aligned read at offset `off` of the DMA window (R53). -/
def decodeRegisterRead (a : Word) (off : Nat) : Instr :=
  if off < 0x100 then
    match off / 4 % 4 with
    | 0 => .rd32ChAddr (offsetChannel off)
    | 1 => .rd32ChBcr (offsetChannel off)
    | 2 => .rd32ChCtrl (offsetChannel off)
    | _ => .rd32DmaReservedSlot (offsetChannel off)
  else if off = 0x100 then .rd32Dpcr
  else if off = 0x104 then .rd32Dicr
  else if off = 0x108 then .rd32Dpcr2
  else if off = 0x10C then .rd32Dicr2
  else .rd32DmaReservedHigh a

/-- The row of a 32-bit, 4-aligned write of `v` at offset `off` of the DMA window (R53). -/
def decodeRegisterWrite (a : Word) (off : Nat) (v : Word) : Instr :=
  if off < 0x100 then
    match off / 4 % 4 with
    | 0 => .wr32ChAddr (offsetChannel off) v
    | 1 => .wr32ChBcr (offsetChannel off) v
    | 2 => .wr32ChCtrl (offsetChannel off) v
    | _ => .wr32DmaReservedSlot (offsetChannel off) v
  else if off = 0x100 then .wr32Dpcr v
  else if off = 0x104 then .wr32Dicr v
  else if off = 0x108 then .wr32Dpcr2 v
  else if off = 0x10C then .wr32Dicr2 v
  else .wr32DmaReservedHigh a v

/-- The row of a read of width `w` in the DMA window (R53, R97): rejected unless 32 bits wide and 4-aligned. -/
def decodeWindowRead (cfg : Config) (w : Width) (a : Word) : Instr :=
  match w with
  | .w8 => .rd8DmaBadaccess a
  | .w16 => .rd16DmaBadaccess a
  | .w64 => .rd64DmaBadaccess a
  | .w32 =>
    if dmaOffset cfg a % 4 ≠ 0 then .rd32DmaBadaccess a
    else decodeRegisterRead a (dmaOffset cfg a)

/-- The row of a write in the DMA window (R53, R98): rejected unless 32 bits wide and 4-aligned. -/
def decodeWindowWrite (cfg : Config) (a : Word) (d : BusData) : Instr :=
  match d with
  | .b8 v => .wr8DmaBadaccess a v
  | .b16 v => .wr16DmaBadaccess a v
  | .b64 v => .wr64DmaBadaccess a v
  | .b32 v =>
    if dmaOffset cfg a % 4 ≠ 0 then .wr32DmaBadaccess a v
    else decodeRegisterWrite a (dmaOffset cfg a) v

/-- `BusRead(w, a)` decoded (R52, R69): the row of the opcode table the router performs. -/
def decodeRead (cfg : Config) (w : Width) (a : Word) : Instr :=
  match region cfg a w.bytes with
  | .dma => decodeWindowRead cfg w a
  | .ram =>
    match w with
    | .w8 => .rd8Ram a
    | .w16 => .rd16Ram a
    | .w32 => .rd32Ram a
    | .w64 => .rd64Ram a
  | .cram =>
    match w with
    | .w8 => .rd8Cram a
    | .w16 => .rd16Cram a
    | .w32 => .rd32Cram a
    | .w64 => .rd64Cram a
  | .dev =>
    match w with
    | .w8 => .rd8Dev a
    | .w16 => .rd16Dev a
    | .w32 => .rd32Dev a
    | .w64 => .rd64Dev a
  | .unmapped =>
    match w with
    | .w8 => .rd8Unmapped a
    | .w16 => .rd16Unmapped a
    | .w32 => .rd32Unmapped a
    | .w64 => .rd64Unmapped a

/-- `BusWrite(w, a, v)` decoded (R52, R70): the row of the opcode table the router performs. The width is the data's. -/
def decodeWrite (cfg : Config) (a : Word) (d : BusData) : Instr :=
  match region cfg a d.width.bytes with
  | .dma => decodeWindowWrite cfg a d
  | .ram =>
    match d with
    | .b8 v => .wr8Ram a v
    | .b16 v => .wr16Ram a v
    | .b32 v => .wr32Ram a v
    | .b64 v => .wr64Ram a v
  | .cram =>
    match d with
    | .b8 v => .wr8Cram a v
    | .b16 v => .wr16Cram a v
    | .b32 v => .wr32Cram a v
    | .b64 v => .wr64Cram a v
  | .dev =>
    match d with
    | .b8 v => .wr8Dev a v
    | .b16 v => .wr16Dev a v
    | .b32 v => .wr32Dev a v
    | .b64 v => .wr64Dev a v
  | .unmapped =>
    match d with
    | .b8 v => .wr8Unmapped a v
    | .b16 v => .wr16Unmapped a v
    | .b32 v => .wr32Unmapped a v
    | .b64 v => .wr64Unmapped a v

/-! ## Operation records

R50 gives the fields of a bus transaction and their codes, R51 the names of the PORT operations, R49 the four formats;
the spec packs none of them into bytes. The packing below is the model's (log entry 6): bytes 0 to 3 hold one 32-bit word,
little-endian (BUS: the address `a`; PORT: the number of the operation; REG: the control word; TAG: the tag word), so that
bit `i` of the opcode table's patterns is bit `i` of the record; byte 4 is the header: bit 0 `kind`, bits 2:1 the code of
`w`, bits 4:3 the format (0 BUS, 1 PORT, 2 REG, 3 TAG), bits 7:5 zero; then a write's `w/8` data bytes, little-endian, or
a REG or TAG record's channel index in one byte. -/

/-- Why a record is no operation. Rejections of the packing (log entry 6), not of the hardware: R65, every bus
transaction matches a row. -/
inductive DecodeError where
  /-- Fewer bytes than the header asks for. -/
  | truncated
  /-- More bytes than the header asks for. -/
  | trailingBytes
  /-- Header bits 7:5 are not zero. -/
  | unknownFormat
  /-- A PORT, REG or TAG header with a nonzero `kind` or `w`. -/
  | reservedHeaderBits
  /-- A PORT record that names no operation of R51. -/
  | unknownPort
  /-- A REG or TAG record whose channel index is not in 0..15. -/
  | channelOutOfRange
deriving DecidableEq, Repr

/-- The width of a 2-bit code (R50: 0 = 8 bits, 1 = 16 bits, 2 = 32 bits, 3 = 64 bits). -/
def widthOfCode (k : Nat) : Width :=
  match k with
  | 0 => .w8
  | 1 => .w16
  | 2 => .w32
  | _ => .w64

/-- The 2-bit code of a width (R50, R66: `code = log2(w/8)`). -/
def Width.code : Width → Nat
  | .w8 => 0
  | .w16 => 1
  | .w32 => 2
  | .w64 => 3

/-- A BUS record's operation (R50): `kind` 0 = read, 1 = write. -/
def decodeBus (cfg : Config) (kind : Nat) (w : Width) (a : Word) (rest : List Byte) : Except DecodeError Instr :=
  if kind = 0 then
    if rest.length = 0 then .ok (decodeRead cfg w a) else .error .trailingBytes
  else if rest.length < w.bytes then .error .truncated
  else if w.bytes < rest.length then .error .trailingBytes
  else .ok (decodeWrite cfg a (BusData.ofNat w (leValue rest)))

/-- A PORT record's operation (R51). -/
def decodePort (word : Word) (rest : List Byte) : Except DecodeError Instr :=
  if rest.length ≠ 0 then .error .trailingBytes
  else if word = 0#32 then .ok .tick
  else if word = 1#32 then .ok .reset
  else if word = 2#32 then .ok .intack
  else .error .unknownPort

/-- The channel index at the end of a REG or TAG record, given to `row`. -/
def decodeChannel (rest : List Byte) (row : ChannelIx → Instr) : Except DecodeError Instr :=
  match rest with
  | [] => .error .truncated
  | [b] => if h : b.toNat < 16 then .ok (row ⟨b.toNat, h⟩) else .error .channelOutOfRange
  | _ => .error .trailingBytes

/-- The operation a record stands for under a configuration: total on any bytes, rejecting by name. -/
def decode (cfg : Config) (record : List Byte) : Except DecodeError Instr :=
  match record with
  | b0 :: b1 :: b2 :: b3 :: h :: rest =>
    let word : Word := BitVec.ofNat 32 (leValue [b0, b1, b2, b3])
    match h.toNat / 8 with
    | 0 => decodeBus cfg (h.toNat % 2) (widthOfCode (h.toNat / 2 % 4)) word rest
    | 1 => if h.toNat % 8 ≠ 0 then .error .reservedHeaderBits else decodePort word rest
    | 2 => if h.toNat % 8 ≠ 0 then .error .reservedHeaderBits else decodeChannel rest (decodeUnit · word)
    | 3 => if h.toNat % 8 ≠ 0 then .error .reservedHeaderBits else decodeChannel rest (decodeTag · word)
    | _ => .error .unknownFormat
  | _ => .error .truncated

/-! ## The encoder, from the same tables -/

/-- A record: its word, its header byte and the bytes after them. -/
def recordBytes (word : Word) (header : Nat) (rest : List Byte) : List Byte :=
  leBytes 4 word.toNat ++ BitVec.ofNat 8 header :: rest

/-- The BUS record `(0, w, a, -)` of a read (R50). -/
def readRecord (w : Width) (a : Word) : List Byte := recordBytes a (2 * w.code) []

/-- The BUS record `(1, w, a, v)` of a write (R50). -/
def writeRecord (a : Word) (d : BusData) : List Byte := recordBytes a (1 + 2 * d.width.code) d.bytes

/-- The PORT record of an operation's number (R51). -/
def portRecord (k : Word) : List Byte := recordBytes k 8 []

/-- The REG record of a control word and its channel (R63). -/
def unitRecord (c : ChannelIx) (ctrl : Word) : List Byte := recordBytes ctrl 16 [BitVec.ofNat 8 c.val]

/-- The TAG record of a tag word and its channel (R62). -/
def tagRecord (c : ChannelIx) (tag : Word) : List Byte := recordBytes tag 24 [BitVec.ofNat 8 c.val]

/-- The record of an operation under a configuration: channel and packed registers at the addresses of R54. -/
def encode (cfg : Config) (i : Instr) : List Byte :=
  match i with
  | .rd8DmaBadaccess a => readRecord .w8 a
  | .rd16DmaBadaccess a => readRecord .w16 a
  | .rd64DmaBadaccess a => readRecord .w64 a
  | .rd32DmaBadaccess a => readRecord .w32 a
  | .wr8DmaBadaccess a v => writeRecord a (.b8 v)
  | .wr16DmaBadaccess a v => writeRecord a (.b16 v)
  | .wr64DmaBadaccess a v => writeRecord a (.b64 v)
  | .wr32DmaBadaccess a v => writeRecord a (.b32 v)
  | .rd32ChAddr c => readRecord .w32 (dmaAddress cfg (16 * c.val))
  | .wr32ChAddr c v => writeRecord (dmaAddress cfg (16 * c.val)) (.b32 v)
  | .rd32ChBcr c => readRecord .w32 (dmaAddress cfg (16 * c.val + 4))
  | .wr32ChBcr c v => writeRecord (dmaAddress cfg (16 * c.val + 4)) (.b32 v)
  | .rd32ChCtrl c => readRecord .w32 (dmaAddress cfg (16 * c.val + 8))
  | .wr32ChCtrl c v => writeRecord (dmaAddress cfg (16 * c.val + 8)) (.b32 v)
  | .rd32DmaReservedSlot c => readRecord .w32 (dmaAddress cfg (16 * c.val + 0xC))
  | .wr32DmaReservedSlot c v => writeRecord (dmaAddress cfg (16 * c.val + 0xC)) (.b32 v)
  | .rd32Dpcr => readRecord .w32 (dmaAddress cfg 0x100)
  | .wr32Dpcr v => writeRecord (dmaAddress cfg 0x100) (.b32 v)
  | .rd32Dicr => readRecord .w32 (dmaAddress cfg 0x104)
  | .wr32Dicr v => writeRecord (dmaAddress cfg 0x104) (.b32 v)
  | .rd32Dpcr2 => readRecord .w32 (dmaAddress cfg 0x108)
  | .wr32Dpcr2 v => writeRecord (dmaAddress cfg 0x108) (.b32 v)
  | .rd32Dicr2 => readRecord .w32 (dmaAddress cfg 0x10C)
  | .wr32Dicr2 v => writeRecord (dmaAddress cfg 0x10C) (.b32 v)
  | .rd32DmaReservedHigh a => readRecord .w32 a
  | .wr32DmaReservedHigh a v => writeRecord a (.b32 v)
  | .rd8Ram a => readRecord .w8 a
  | .rd16Ram a => readRecord .w16 a
  | .rd32Ram a => readRecord .w32 a
  | .rd64Ram a => readRecord .w64 a
  | .wr8Ram a v => writeRecord a (.b8 v)
  | .wr16Ram a v => writeRecord a (.b16 v)
  | .wr32Ram a v => writeRecord a (.b32 v)
  | .wr64Ram a v => writeRecord a (.b64 v)
  | .rd8Cram a => readRecord .w8 a
  | .rd16Cram a => readRecord .w16 a
  | .rd32Cram a => readRecord .w32 a
  | .rd64Cram a => readRecord .w64 a
  | .wr8Cram a v => writeRecord a (.b8 v)
  | .wr16Cram a v => writeRecord a (.b16 v)
  | .wr32Cram a v => writeRecord a (.b32 v)
  | .wr64Cram a v => writeRecord a (.b64 v)
  | .rd8Dev a => readRecord .w8 a
  | .rd16Dev a => readRecord .w16 a
  | .rd32Dev a => readRecord .w32 a
  | .rd64Dev a => readRecord .w64 a
  | .wr8Dev a v => writeRecord a (.b8 v)
  | .wr16Dev a v => writeRecord a (.b16 v)
  | .wr32Dev a v => writeRecord a (.b32 v)
  | .wr64Dev a v => writeRecord a (.b64 v)
  | .rd8Unmapped a => readRecord .w8 a
  | .rd16Unmapped a => readRecord .w16 a
  | .rd32Unmapped a => readRecord .w32 a
  | .rd64Unmapped a => readRecord .w64 a
  | .wr8Unmapped a v => writeRecord a (.b8 v)
  | .wr16Unmapped a v => writeRecord a (.b16 v)
  | .wr32Unmapped a v => writeRecord a (.b32 v)
  | .wr64Unmapped a v => writeRecord a (.b64 v)
  | .tick => portRecord 0#32
  | .reset => portRecord 1#32
  | .intack => portRecord 2#32
  | .unitBurst c dir => unitRecord c (startControl .burst dir)
  | .unitBlock c dir => unitRecord c (startControl .block dir)
  | .unitList c dir => unitRecord c (startControl .list dir)
  | .unitReserved c dir => unitRecord c (startControl .reserved dir)
  | .tagLast c len => tagRecord c (tagWord len terminator)
  | .tagLink c len next => tagRecord c (tagWord len next)

/-! ## The host's table words -/

/-- How many bytes a record with this header byte has. -/
def recordLength (header : Nat) : Nat :=
  if 16 ≤ header then 6
  else if header / 8 = 0 ∧ header % 2 = 1 then 5 + (widthOfCode (header / 2 % 4)).bytes
  else 5

/-- The record whose bits are `w`, numbered as the opcode table numbers them: bit 0 is the least significant bit of the
record's word; `nbits` bits are given and every bit above them is 0 (log entry 7). -/
def tableRecord (nbits w : Nat) : List Byte :=
  leBytes (recordLength (w % 2 ^ nbits / 2 ^ 32 % 256)) (w % 2 ^ nbits)

/-- What the decoder reads from an operation record whose bits are `w`, under the vector-default configuration for which
the table's patterns are written (R65). -/
def decodeTableWord (nbits w : Nat) : Option Instr :=
  match decode Config.vectorDefault (tableRecord nbits w) with
  | .ok i => some i
  | .error _ => none

/-! ## The opcode table's BUS rows as data (R65)

The decoder does not use them: R65's claim that the rows, tried in order, are the decode of the vector-default
configuration is a statement about the two. -/

/-- The table's name of an operation (spec/opcode_table.json `mnemonic`). -/
def Instr.mnemonic : Instr → String
  | .rd8DmaBadaccess _ => "RD8.DMA_BADACCESS"
  | .rd16DmaBadaccess _ => "RD16.DMA_BADACCESS"
  | .rd64DmaBadaccess _ => "RD64.DMA_BADACCESS"
  | .rd32DmaBadaccess _ => "RD32.DMA_BADACCESS"
  | .wr8DmaBadaccess _ _ => "WR8.DMA_BADACCESS"
  | .wr16DmaBadaccess _ _ => "WR16.DMA_BADACCESS"
  | .wr64DmaBadaccess _ _ => "WR64.DMA_BADACCESS"
  | .wr32DmaBadaccess _ _ => "WR32.DMA_BADACCESS"
  | .rd32ChAddr _ => "RD32.CH_ADDR"
  | .wr32ChAddr _ _ => "WR32.CH_ADDR"
  | .rd32ChBcr _ => "RD32.CH_BCR"
  | .wr32ChBcr _ _ => "WR32.CH_BCR"
  | .rd32ChCtrl _ => "RD32.CH_CTRL"
  | .wr32ChCtrl _ _ => "WR32.CH_CTRL"
  | .rd32DmaReservedSlot _ => "RD32.DMA_RESERVED.SLOT"
  | .wr32DmaReservedSlot _ _ => "WR32.DMA_RESERVED.SLOT"
  | .rd32Dpcr => "RD32.DPCR"
  | .wr32Dpcr _ => "WR32.DPCR"
  | .rd32Dicr => "RD32.DICR"
  | .wr32Dicr _ => "WR32.DICR"
  | .rd32Dpcr2 => "RD32.DPCR2"
  | .wr32Dpcr2 _ => "WR32.DPCR2"
  | .rd32Dicr2 => "RD32.DICR2"
  | .wr32Dicr2 _ => "WR32.DICR2"
  | .rd32DmaReservedHigh _ => "RD32.DMA_RESERVED.HIGH"
  | .wr32DmaReservedHigh _ _ => "WR32.DMA_RESERVED.HIGH"
  | .rd8Ram _ => "RD8.RAM"
  | .rd16Ram _ => "RD16.RAM"
  | .rd32Ram _ => "RD32.RAM"
  | .rd64Ram _ => "RD64.RAM"
  | .wr8Ram _ _ => "WR8.RAM"
  | .wr16Ram _ _ => "WR16.RAM"
  | .wr32Ram _ _ => "WR32.RAM"
  | .wr64Ram _ _ => "WR64.RAM"
  | .rd8Cram _ => "RD8.CRAM"
  | .rd16Cram _ => "RD16.CRAM"
  | .rd32Cram _ => "RD32.CRAM"
  | .rd64Cram _ => "RD64.CRAM"
  | .wr8Cram _ _ => "WR8.CRAM"
  | .wr16Cram _ _ => "WR16.CRAM"
  | .wr32Cram _ _ => "WR32.CRAM"
  | .wr64Cram _ _ => "WR64.CRAM"
  | .rd8Dev _ => "RD8.DEV"
  | .rd16Dev _ => "RD16.DEV"
  | .rd32Dev _ => "RD32.DEV"
  | .rd64Dev _ => "RD64.DEV"
  | .wr8Dev _ _ => "WR8.DEV"
  | .wr16Dev _ _ => "WR16.DEV"
  | .wr32Dev _ _ => "WR32.DEV"
  | .wr64Dev _ _ => "WR64.DEV"
  | .rd8Unmapped _ => "RD8.UNMAPPED"
  | .rd16Unmapped _ => "RD16.UNMAPPED"
  | .rd32Unmapped _ => "RD32.UNMAPPED"
  | .rd64Unmapped _ => "RD64.UNMAPPED"
  | .wr8Unmapped _ _ => "WR8.UNMAPPED"
  | .wr16Unmapped _ _ => "WR16.UNMAPPED"
  | .wr32Unmapped _ _ => "WR32.UNMAPPED"
  | .wr64Unmapped _ _ => "WR64.UNMAPPED"
  | .tick => "TICK"
  | .reset => "RESET"
  | .intack => "INTACK"
  | .unitBurst _ _ => "UNIT.BURST"
  | .unitBlock _ _ => "UNIT.BLOCK"
  | .unitList _ _ => "UNIT.LIST"
  | .unitReserved _ _ => "UNIT.RESERVED"
  | .tagLast _ _ => "TAG.LAST"
  | .tagLink _ _ _ => "TAG.LINK"

/-- The formats of R49 that select an operation (R65 `format`). -/
inductive Format where
  | bus
  | port
  | reg
  | tag
deriving DecidableEq, Repr

/-- The format of an operation's row. -/
def Instr.format : Instr → Format
  | .rd8DmaBadaccess _ => .bus
  | .rd16DmaBadaccess _ => .bus
  | .rd64DmaBadaccess _ => .bus
  | .rd32DmaBadaccess _ => .bus
  | .wr8DmaBadaccess _ _ => .bus
  | .wr16DmaBadaccess _ _ => .bus
  | .wr64DmaBadaccess _ _ => .bus
  | .wr32DmaBadaccess _ _ => .bus
  | .rd32ChAddr _ => .bus
  | .wr32ChAddr _ _ => .bus
  | .rd32ChBcr _ => .bus
  | .wr32ChBcr _ _ => .bus
  | .rd32ChCtrl _ => .bus
  | .wr32ChCtrl _ _ => .bus
  | .rd32DmaReservedSlot _ => .bus
  | .wr32DmaReservedSlot _ _ => .bus
  | .rd32Dpcr => .bus
  | .wr32Dpcr _ => .bus
  | .rd32Dicr => .bus
  | .wr32Dicr _ => .bus
  | .rd32Dpcr2 => .bus
  | .wr32Dpcr2 _ => .bus
  | .rd32Dicr2 => .bus
  | .wr32Dicr2 _ => .bus
  | .rd32DmaReservedHigh _ => .bus
  | .wr32DmaReservedHigh _ _ => .bus
  | .rd8Ram _ => .bus
  | .rd16Ram _ => .bus
  | .rd32Ram _ => .bus
  | .rd64Ram _ => .bus
  | .wr8Ram _ _ => .bus
  | .wr16Ram _ _ => .bus
  | .wr32Ram _ _ => .bus
  | .wr64Ram _ _ => .bus
  | .rd8Cram _ => .bus
  | .rd16Cram _ => .bus
  | .rd32Cram _ => .bus
  | .rd64Cram _ => .bus
  | .wr8Cram _ _ => .bus
  | .wr16Cram _ _ => .bus
  | .wr32Cram _ _ => .bus
  | .wr64Cram _ _ => .bus
  | .rd8Dev _ => .bus
  | .rd16Dev _ => .bus
  | .rd32Dev _ => .bus
  | .rd64Dev _ => .bus
  | .wr8Dev _ _ => .bus
  | .wr16Dev _ _ => .bus
  | .wr32Dev _ _ => .bus
  | .wr64Dev _ _ => .bus
  | .rd8Unmapped _ => .bus
  | .rd16Unmapped _ => .bus
  | .rd32Unmapped _ => .bus
  | .rd64Unmapped _ => .bus
  | .wr8Unmapped _ _ => .bus
  | .wr16Unmapped _ _ => .bus
  | .wr32Unmapped _ _ => .bus
  | .wr64Unmapped _ _ => .bus
  | .tick => .port
  | .reset => .port
  | .intack => .port
  | .unitBurst _ _ => .reg
  | .unitBlock _ _ => .reg
  | .unitList _ _ => .reg
  | .unitReserved _ _ => .reg
  | .tagLast _ _ => .tag
  | .tagLink _ _ _ => .tag

/-- `kind` of a bus transaction (R50). -/
inductive Kind where
  | read
  | write
deriving DecidableEq, Repr

/-- The condition `fields.cond` of a BUS row, beside its mask and match (R65). -/
inductive RowCond where
  /-- The row has none. -/
  | none
  /-- The last byte `a + w/8 - 1`, computed without wrap, matches the same pattern. -/
  | lastByte
  /-- As `lastByte`, and `a[1:0] != 0`. -/
  | misaligned
  /-- The address is not below this one. -/
  | atLeast (lo : Word)
deriving DecidableEq, Repr

/-- A BUS row of the opcode table (R65). A default row has no pattern. -/
structure BusRow where
  name : String
  kind : Kind
  w : Width
  pattern : Option (Word × Word)
  cond : RowCond
deriving DecidableEq, Repr

/-- A row matches a transaction: kind and width equal, `a & mask = match`, and the condition holds (R65). -/
def BusRow.matches (row : BusRow) (kind : Kind) (w : Width) (a : Word) : Bool :=
  decide (row.kind = kind) && decide (row.w = w) &&
  match row.pattern with
  | none => true
  | some (mask, pat) =>
    decide (a &&& mask = pat) &&
    match row.cond with
    | .none => true
    | .lastByte =>
      decide (a.toNat + w.bytes ≤ 2 ^ 32) && decide (BitVec.ofNat 32 (a.toNat + w.bytes - 1) &&& mask = pat)
    | .misaligned =>
      decide (a.toNat + w.bytes ≤ 2 ^ 32) && decide (BitVec.ofNat 32 (a.toNat + w.bytes - 1) &&& mask = pat) &&
      decide (a.extractLsb' 0 2 ≠ 0#2)
    | .atLeast lo => decide (lo.toNat ≤ a.toNat)

/-- Orders 1 to 8 of the opcode table: the rows of R97 and R98. -/
def busRowsRejected : List BusRow :=
  [⟨"RD8.DMA_BADACCESS", .read, .w8, some (0xFFFFFE00#32, 0x1F801000#32), .lastByte⟩,
   ⟨"RD16.DMA_BADACCESS", .read, .w16, some (0xFFFFFE00#32, 0x1F801000#32), .lastByte⟩,
   ⟨"RD64.DMA_BADACCESS", .read, .w64, some (0xFFFFFE00#32, 0x1F801000#32), .lastByte⟩,
   ⟨"RD32.DMA_BADACCESS", .read, .w32, some (0xFFFFFE00#32, 0x1F801000#32), .misaligned⟩,
   ⟨"WR8.DMA_BADACCESS", .write, .w8, some (0xFFFFFE00#32, 0x1F801000#32), .lastByte⟩,
   ⟨"WR16.DMA_BADACCESS", .write, .w16, some (0xFFFFFE00#32, 0x1F801000#32), .lastByte⟩,
   ⟨"WR64.DMA_BADACCESS", .write, .w64, some (0xFFFFFE00#32, 0x1F801000#32), .lastByte⟩,
   ⟨"WR32.DMA_BADACCESS", .write, .w32, some (0xFFFFFE00#32, 0x1F801000#32), .misaligned⟩]

/-- Orders 9 to 26 of the opcode table: the rows of R81 to R96. -/
def busRowsRegisters : List BusRow :=
  [⟨"RD32.CH_ADDR", .read, .w32, some (0xFFFFFF0F#32, 0x1F801000#32), .none⟩,
   ⟨"WR32.CH_ADDR", .write, .w32, some (0xFFFFFF0F#32, 0x1F801000#32), .none⟩,
   ⟨"RD32.CH_BCR", .read, .w32, some (0xFFFFFF0F#32, 0x1F801004#32), .none⟩,
   ⟨"WR32.CH_BCR", .write, .w32, some (0xFFFFFF0F#32, 0x1F801004#32), .none⟩,
   ⟨"RD32.CH_CTRL", .read, .w32, some (0xFFFFFF0F#32, 0x1F801008#32), .none⟩,
   ⟨"WR32.CH_CTRL", .write, .w32, some (0xFFFFFF0F#32, 0x1F801008#32), .none⟩,
   ⟨"RD32.DMA_RESERVED.SLOT", .read, .w32, some (0xFFFFFF0F#32, 0x1F80100C#32), .none⟩,
   ⟨"WR32.DMA_RESERVED.SLOT", .write, .w32, some (0xFFFFFF0F#32, 0x1F80100C#32), .none⟩,
   ⟨"RD32.DPCR", .read, .w32, some (0xFFFFFFFF#32, 0x1F801100#32), .none⟩,
   ⟨"WR32.DPCR", .write, .w32, some (0xFFFFFFFF#32, 0x1F801100#32), .none⟩,
   ⟨"RD32.DICR", .read, .w32, some (0xFFFFFFFF#32, 0x1F801104#32), .none⟩,
   ⟨"WR32.DICR", .write, .w32, some (0xFFFFFFFF#32, 0x1F801104#32), .none⟩,
   ⟨"RD32.DPCR2", .read, .w32, some (0xFFFFFFFF#32, 0x1F801108#32), .none⟩,
   ⟨"WR32.DPCR2", .write, .w32, some (0xFFFFFFFF#32, 0x1F801108#32), .none⟩,
   ⟨"RD32.DICR2", .read, .w32, some (0xFFFFFFFF#32, 0x1F80110C#32), .none⟩,
   ⟨"WR32.DICR2", .write, .w32, some (0xFFFFFFFF#32, 0x1F80110C#32), .none⟩,
   ⟨"RD32.DMA_RESERVED.HIGH", .read, .w32, some (0xFFFFFF03#32, 0x1F801100#32), .atLeast 0x1F801110#32⟩,
   ⟨"WR32.DMA_RESERVED.HIGH", .write, .w32, some (0xFFFFFF03#32, 0x1F801100#32), .atLeast 0x1F801110#32⟩]

/-- Orders 27 to 34 of the opcode table: the rows of R71 and R72. -/
def busRowsRam : List BusRow :=
  [⟨"RD8.RAM", .read, .w8, some (0xFFE00000#32, 0x00000000#32), .lastByte⟩,
   ⟨"RD16.RAM", .read, .w16, some (0xFFE00000#32, 0x00000000#32), .lastByte⟩,
   ⟨"RD32.RAM", .read, .w32, some (0xFFE00000#32, 0x00000000#32), .lastByte⟩,
   ⟨"RD64.RAM", .read, .w64, some (0xFFE00000#32, 0x00000000#32), .lastByte⟩,
   ⟨"WR8.RAM", .write, .w8, some (0xFFE00000#32, 0x00000000#32), .lastByte⟩,
   ⟨"WR16.RAM", .write, .w16, some (0xFFE00000#32, 0x00000000#32), .lastByte⟩,
   ⟨"WR32.RAM", .write, .w32, some (0xFFE00000#32, 0x00000000#32), .lastByte⟩,
   ⟨"WR64.RAM", .write, .w64, some (0xFFE00000#32, 0x00000000#32), .lastByte⟩]

/-- Orders 35 to 42 of the opcode table: the rows of R73 and R74. -/
def busRowsCram : List BusRow :=
  [⟨"RD8.CRAM", .read, .w8, some (0xFFE00000#32, 0x1C000000#32), .lastByte⟩,
   ⟨"RD16.CRAM", .read, .w16, some (0xFFE00000#32, 0x1C000000#32), .lastByte⟩,
   ⟨"RD32.CRAM", .read, .w32, some (0xFFE00000#32, 0x1C000000#32), .lastByte⟩,
   ⟨"RD64.CRAM", .read, .w64, some (0xFFE00000#32, 0x1C000000#32), .lastByte⟩,
   ⟨"WR8.CRAM", .write, .w8, some (0xFFE00000#32, 0x1C000000#32), .lastByte⟩,
   ⟨"WR16.CRAM", .write, .w16, some (0xFFE00000#32, 0x1C000000#32), .lastByte⟩,
   ⟨"WR32.CRAM", .write, .w32, some (0xFFE00000#32, 0x1C000000#32), .lastByte⟩,
   ⟨"WR64.CRAM", .write, .w64, some (0xFFE00000#32, 0x1C000000#32), .lastByte⟩]

/-- Orders 43 to 50 of the opcode table: the rows of R75 and R76. -/
def busRowsDev : List BusRow :=
  [⟨"RD8.DEV", .read, .w8, some (0xFFFFF000#32, 0x1F800000#32), .lastByte⟩,
   ⟨"RD16.DEV", .read, .w16, some (0xFFFFF000#32, 0x1F800000#32), .lastByte⟩,
   ⟨"RD32.DEV", .read, .w32, some (0xFFFFF000#32, 0x1F800000#32), .lastByte⟩,
   ⟨"RD64.DEV", .read, .w64, some (0xFFFFF000#32, 0x1F800000#32), .lastByte⟩,
   ⟨"WR8.DEV", .write, .w8, some (0xFFFFF000#32, 0x1F800000#32), .lastByte⟩,
   ⟨"WR16.DEV", .write, .w16, some (0xFFFFF000#32, 0x1F800000#32), .lastByte⟩,
   ⟨"WR32.DEV", .write, .w32, some (0xFFFFF000#32, 0x1F800000#32), .lastByte⟩,
   ⟨"WR64.DEV", .write, .w64, some (0xFFFFF000#32, 0x1F800000#32), .lastByte⟩]

/-- Orders 51 to 58 of the opcode table: the default rows of R77 and R78. -/
def busRowsUnmapped : List BusRow :=
  [⟨"RD8.UNMAPPED", .read, .w8, none, .none⟩,
   ⟨"RD16.UNMAPPED", .read, .w16, none, .none⟩,
   ⟨"RD32.UNMAPPED", .read, .w32, none, .none⟩,
   ⟨"RD64.UNMAPPED", .read, .w64, none, .none⟩,
   ⟨"WR8.UNMAPPED", .write, .w8, none, .none⟩,
   ⟨"WR16.UNMAPPED", .write, .w16, none, .none⟩,
   ⟨"WR32.UNMAPPED", .write, .w32, none, .none⟩,
   ⟨"WR64.UNMAPPED", .write, .w64, none, .none⟩]

/-- The 58 BUS rows in decode order (R65). -/
def busRows : List BusRow :=
  busRowsRejected ++ busRowsRegisters ++ busRowsRam ++ busRowsCram ++ busRowsDev ++ busRowsUnmapped

/-- "A decoder takes the first row, in the order of the field `fields.order`, that matches" (R65). -/
def firstRow (kind : Kind) (w : Width) (a : Word) : Option String :=
  (busRows.find? (·.matches kind w a)).map (·.name)

end Sys2Proof
end

