-- ==== Sys2Proof/Machine/State.lean ====
section
/-! DEFINITION. The state of the block (R13), the model's own fields beside it, the outcomes a step can stop with, and the
state after reset (R26). -/

namespace Sys2Proof.Machine

/-- The status of a bus access (R122). -/
inductive Status where
  /-- Code 0: the access reached a region and was performed. -/
  | ok
  /-- Code 1: no single region holds all bytes of the access. -/
  | unmapped
  /-- Code 2: the access names no register of the DMA window, has the wrong width or alignment, or passed a channel number
  outside 0..15 on a numbered interface. -/
  | reject
deriving DecidableEq, Repr

/-- The result an operation returns to its caller and to no one else (R69, R70). -/
inductive Answer where
  | read (status : Status) (data : BusData)
  | write (status : Status)
deriving DecidableEq, Repr

/-- An entry of the event history (R23): an output event (R46, R76, R110, R117), or a change of the level `irq_out`. -/
inductive Event where
  /-- `Invalidate(a, n)`: `n` bytes at bus address `a` were written (R46). -/
  | invalidate (a : Word) (n : Nat)
  /-- `DevOut(c, b)`: byte `b` handed to channel `c`'s device port (R110). -/
  | devOut (c : ChannelIx) (b : Byte)
  /-- `DevRegWrite(w, a, v)`: a write forwarded to the device-register set (R76). -/
  | devRegWrite (a : Word) (d : BusData)
  /-- `IntSignal()`: one signal to the interrupt-flag sink (R117). -/
  | intSignal
  /-- `irq_out` has become this level (R23, R119). An observation, not an event that an operation emits: R136's "RESET emits
  no event" stands beside it (log entry 15). -/
  | irqOut (level : Bool)
deriving DecidableEq, Repr

/-- The three registers of one channel (R14, R15, R16). -/
structure Channel where
  addr : Word
  bcr : Word
  ctrl : Word
deriving DecidableEq, Repr

/-- The channel registers an interface that takes the channel as a number reaches (R67, R99). -/
inductive ChannelReg where
  | addr
  | bcr
  | ctrl
deriving DecidableEq, Repr

/-- One operation the environment applies to the block. -/
inductive Input where
  /-- An operation by its record. -/
  | record (bytes : List Byte)
  /-- A write through the numbered interface (R67 `set_chan_control` and its siblings, R99): the number may be out of
  range. -/
  | numberedWrite (reg : ChannelReg) (c : Nat) (v : Word)
  /-- A read through the numbered interface (R99). -/
  | numberedRead (reg : ChannelReg) (c : Nat)
deriving DecidableEq, Repr

/-- A byte array as the cells something has written since the last reset, indexes strictly rising (R22). What an unlisted
index reads as is `Memory.unlisted` in Machine/Ops.lean. -/
abbrev Memory := List Host.Cell

/-- The state: every element of R13 under its own name, then the model's own fields. -/
structure State where
  /-- The configuration of R7: no operation changes it (log entry 1). -/
  cfg : Config
  /-- `ch[c].addr`, `ch[c].bcr`, `ch[c].ctrl` (R14, R15, R16). -/
  ch : PerChannel Channel
  /-- `prio[c]` (R19). -/
  prio : PerChannel (BitVec 3)
  /-- `en[c]` (R19). -/
  en : PerChannel Bool
  /-- `ie[c]` (R20). -/
  ie : PerChannel Bool
  /-- `if[c]` (R20). -/
  iflag : PerChannel Bool
  /-- `mie` (R20). -/
  mie : Bool
  /-- `isink.pending` (R21). -/
  pending : Bool
  /-- `RAM`, indexed by `a - RAM_BASE` (R22, R37). -/
  ram : Memory
  /-- `CRAM`, indexed by `a - CRAM_BASE` (R22, R37). -/
  cram : Memory
  /-- The model's own: which reset the contents of unwritten memory were drawn at (R26, log entry 4). -/
  memDraw : Nat
  /-- The model's own: how many draws have been taken (R40, log entry 3). -/
  draws : Nat
  /-- The model's own: the operations still to be applied, next first: the schedule the environment chooses (R23, R44, log
  entry 5). -/
  schedule : List Input
  /-- The model's own: the bytes each device port will answer, next first; after them it answers draws (R66 `DEVIN`, R110,
  log entry 8). -/
  devInput : PerChannel (List Byte)
  /-- The model's own: what the last operation returned to its caller (R69, R70, log entry 9). -/
  answer : Option Answer
  /-- The model's own: the history of output events and of the level `irq_out`, newest first (R23, log entries 9, 15). -/
  events : List Event
deriving DecidableEq, Repr

/-- Why the machine stops with a fault: never. R123: "Nothing in the block is fatal and nothing aborts globally"; an
access that fails returns a status to its caller and the block goes on (R122). -/
inductive Fault where
deriving DecidableEq, Repr

/-- Why a step has no meaning. -/
inductive Refusal where
  /-- Raised by an arm of `exec` for an operation that has no meaning yet; no arm of this model raises it. Safe: the
  machine stops. -/
  | notModelled (mnemonic : String)
  /-- Raised by `step` where the next record of the schedule is no operation (log entry 6). Safe: the machine stops at an
  input the hardware cannot be given. -/
  | undecodable (e : DecodeError)
  /-- Raised by a BUS row whose address operand does not decode to that row; `decode` builds no such term (log entry 10).
  Safe: the machine stops at a term that is no operation. -/
  | operandsNotOfRow
  /-- Raised by a REG or TAG row that the tick's winner does not select in this state (log entry 11). Safe: the machine
  stops where the hardware performs another row. -/
  | rowNotSelected
  /-- Raised by UNIT.RESERVED, and so by a TICK whose winner has `sync = 3`: R108 leaves the unit "unspecified" and has a
  model treat the tick "as *refused*" (U5). Safe: the machine stops. -/
  | syncReserved
deriving DecidableEq, Repr

/-- The state right after reset (R26, R136): every register, flag, enable and priority 0, nothing written to memory; the
vector-default configuration, an empty schedule and an empty history (log entries 1, 4, 5, 8, 9). -/
def State.reset : State where
  cfg := Config.vectorDefault
  ch := Vector.replicate 16 { addr := 0#32, bcr := 0#32, ctrl := 0#32 }
  prio := Vector.replicate 16 0#3
  en := Vector.replicate 16 false
  ie := Vector.replicate 16 false
  iflag := Vector.replicate 16 false
  mie := false
  pending := false
  ram := []
  cram := []
  memDraw := 0
  draws := 0
  schedule := []
  devInput := Vector.replicate 16 []
  answer := none
  events := []

end Sys2Proof.Machine
end

