-- ==== Sys2Proof/Machine/Operands.lean ====
section
/-! DEFINITION. Operand assembly (R55): the fields of the block-control register, the packed views DPCR, DPCR2, DICR and
DICR2, and the next-pointer's extension. The fields of the control word and of the tag word, which decoding needs too, are
in Decode.lean. -/

namespace Sys2Proof.Machine

/-! ## The block-control register (R58) -/

/-- `size = bcr[15:0]`, bytes in one block. "The value 0 in either field means zero, not 65536" (R58). -/
def bcrSize (bcr : Word) : Nat := (bcr.extractLsb' 0 16).toNat

/-- `count = bcr[31:16]`, blocks still to move (R58). -/
def bcrCount (bcr : Word) : Nat := (bcr.extractLsb' 16 16).toNat

/-- `bcr[31:16] <- count`: the register with its count replaced and its size kept (R105). -/
def bcrWithCount (bcr : Word) (count : Nat) : Word := BitVec.ofNat 16 count ++ bcr.extractLsb' 0 16

/-! ## The tag (R62) -/

/-- `zext_32(next)`: "the next-pointer is zero-extended from 24 to 32 bits" (R55). -/
def nextAddress (next : BitVec 24) : Word := next.setWidth 32

/-- The payload's length in bytes, `4 * len` (R62, R113: at most 1020). -/
def payloadBytes (len : Byte) : Nat := 4 * len.toNat

/-! ## The packed registers (R55, R60, R61)

Group `g` is 0 for DPCR and DICR (channels 0..7) and 1 for DPCR2 and DICR2 (channels 8..15). -/

/-- The channel `c = 8*g + i` of nibble or interrupt bit `i` of register group `g` (R55). -/
def groupChannel (g : Fin 2) (i : Fin 8) : ChannelIx := ⟨8 * g.val + i.val, by omega⟩

/-- Channel `c` belongs to group `g` (R55: `c = 8*g + i` for an `i` in 0..7). -/
def inGroup (g : Fin 2) (c : ChannelIx) : Bool := decide (c.val / 8 = g.val)

/-- The place `i` of a channel in its group: `c = 8*g + i` (R55). -/
def groupIndex (c : ChannelIx) : Nat := c.val % 8

/-- The packed view DPCR (`g = 0`) or DPCR2 (`g = 1`): bits `[4*i+2 : 4*i]` are `prio[8g+i]` and bit `4*i+3` is
`en[8g+i]` (R60, R87, R89). -/
def packPriority (g : Fin 2) (prio : PerChannel (BitVec 3)) (en : PerChannel Bool) : Word :=
  BitVec.ofFnLE fun k : Fin 32 =>
    let c := groupChannel g ⟨k.val / 4, by omega⟩
    if k.val % 4 = 3 then en[c] else (prio[c]).getLsbD (k.val % 4)

/-- `prio[c]` as a write of `v` to channel `c`'s register leaves it: `v[4*i+2 : 4*i]` (R88, R90). -/
def unpackPrio (v : Word) (c : ChannelIx) : BitVec 3 := v.extractLsb' (4 * groupIndex c) 3

/-- `en[c]` as a write of `v` to channel `c`'s register leaves it: `v[4*i+3]` (R88, R90). -/
def unpackEn (v : Word) (c : ChannelIx) : Bool := v.getLsbD (4 * groupIndex c + 3)

/-- The packed view DICR (`g = 0`) or DICR2 (`g = 1`): bit `24+i` is `if[8g+i]`, bit `16+i` is `ie[8g+i]`, bit 15 is `mie`
in DICR and 0 in DICR2, bits 14:0 read 0 (R61, R91, R93). -/
def packInterrupt (g : Fin 2) (ie iflag : PerChannel Bool) (mie : Bool) : Word :=
  BitVec.ofFnLE fun k : Fin 32 =>
    let c := groupChannel g ⟨k.val % 8, by omega⟩
    if 24 ≤ k.val then iflag[c]
    else if 16 ≤ k.val then ie[c]
    else if k.val = 15 then decide (g = 0) && mie
    else false

/-- `ie[c]` as a write of `v` to channel `c`'s register leaves it: `v[16+i]` (R92, R94). -/
def unpackIe (v : Word) (c : ChannelIx) : Bool := v.getLsbD (16 + groupIndex c)

/-- The acknowledge bit `v[24+i]` of channel `c` (R92, R94). -/
def unpackAck (v : Word) (c : ChannelIx) : Bool := v.getLsbD (24 + groupIndex c)

end Sys2Proof.Machine
end

