-- ==== Sys2Proof/Machine/Ops.lean ====
section
/-! DEFINITION. The shared operations: memory (R22, R37), draws (R40), answers and events (R23), the engine's byte accesses
to the Bus (R47, R109), the device port (R110), the interrupt-flag sink (R117 to R119). -/

namespace Sys2Proof.Machine

/-! ## A byte array -/

/-- What an index that nothing has written since reset reads as in the list: no value. Such a byte holds the draw of
`State.byteAt` (R26, log entry 4). -/
def Memory.unlisted (_o : Nat) : Option Byte := none

/-- The byte listed at an index. -/
def Memory.read : Memory → Nat → Option Byte
  | [], o => Memory.unlisted o
  | (k, x) :: m, o => if k = o then some x else Memory.read m o

/-- `M[o] <- b`, keeping the indexes strictly rising. -/
def Memory.write : Memory → Nat → Byte → Memory
  | [], o, b => [(o, b)]
  | (k, x) :: m, o, b =>
    if o < k then (o, b) :: (k, x) :: m
    else if o = k then (o, b) :: m
    else (k, x) :: Memory.write m o b

/-- The canonical form: indexes strictly rising, and no entry equal to what an unlisted index reads as. -/
abbrev Memory.wf (m : Memory) : Prop :=
  m.Pairwise (fun x y => x.1 < y.1) ∧ ∀ e ∈ m, some e.2 ≠ Memory.unlisted e.1

/-- Every listed index is an index of an array of `n` bytes (R22: `RAM[0 .. RAM_SIZE-1]`). -/
abbrev Memory.within (m : Memory) (n : Nat) : Prop := ∀ e ∈ m, e.1 < n

/-! ## The two memories -/

/-- The array of a memory. -/
def State.bank (s : State) : Bank → Memory
  | .ram => s.ram
  | .cram => s.cram

/-- The state with the array of a memory replaced. -/
def State.setBank (s : State) (b : Bank) (m : Memory) : State :=
  match b with
  | .ram => { s with ram := m }
  | .cram => { s with cram := m }

/-- Byte `o` of memory `b`: what was last written there since reset, else the byte drawn for it at reset (R26). -/
def State.byteAt (s : State) (b : Bank) (o : Nat) : Byte :=
  match (s.bank b).read o with
  | some x => x
  | none => Config.freeByte s.memDraw b o

/-- The `n` bytes of memory `b` from index `o` (R37 `MemRead`). -/
def State.readBytes (s : State) (b : Bank) (o : Nat) : Nat → List Byte
  | 0 => []
  | n + 1 => s.byteAt b o :: s.readBytes b (o + 1) n

/-- Store bytes into memory `b` from index `o` up (R37 `MemWrite`). -/
def State.storeBytes (s : State) (b : Bank) (o : Nat) : List Byte → State
  | [] => s
  | x :: xs => (s.setBank b ((s.bank b).write o x)).storeBytes b (o + 1) xs

/-! ## Draws, answers and events -/

/-- The next draw as a number: `draw(N)` is its low `N` bits (R40). -/
def State.draw (s : State) : Nat := (Config.freeValue s.draws).toNat

/-- The state after a draw has been taken. -/
def State.drawn (s : State) : State := { s with draws := s.draws + 1 }

/-- The operation's result goes to its caller; an operation that returns nothing leaves none (R69, R70, R101). -/
def State.answerWith (s : State) (ans : Option Answer) : State := { s with answer := ans }

/-- An output event is recorded (R23). -/
def State.emit (s : State) (e : Event) : State := { s with events := e :: s.events }

/-! ## Channel registers -/

/-- `ch[c].addr <- v`. -/
def State.setAddr (s : State) (c : ChannelIx) (v : Word) : State :=
  { s with ch := s.ch.set c { s.ch[c] with addr := v } }

/-- `ch[c].bcr <- v`. -/
def State.setBcr (s : State) (c : ChannelIx) (v : Word) : State :=
  { s with ch := s.ch.set c { s.ch[c] with bcr := v } }

/-- `ch[c].ctrl <- v`. -/
def State.setCtrl (s : State) (c : ChannelIx) (v : Word) : State :=
  { s with ch := s.ch.set c { s.ch[c] with ctrl := v } }

/-! ## The engine's byte accesses (R47, R109) -/

/-- `BusRead(8, a)` as the engine issues it, its status discarded: the byte of RAM or CRAM, else a draw (R71, R73, R75,
R77, R97, R109). -/
def busReadByte (a : Word) (s : State) : Byte × State :=
  match region s.cfg a 1 with
  | .ram => (s.byteAt .ram (bankOffset s.cfg .ram a), s)
  | .cram => (s.byteAt .cram (bankOffset s.cfg .cram a), s)
  | .dev => (BitVec.ofNat 8 s.draw, s.drawn)
  | .dma => (BitVec.ofNat 8 s.draw, s.drawn)
  | .unmapped => (BitVec.ofNat 8 s.draw, s.drawn)

/-- `BusWrite(8, a, b)` as the engine issues it, its status discarded: stored in RAM or CRAM with its `Invalidate`,
forwarded to the device set, else lost (R72, R74, R76, R78, R98, R109). -/
def busWriteByte (a : Word) (b : Byte) (s : State) : State :=
  match region s.cfg a 1 with
  | .ram => (s.storeBytes .ram (bankOffset s.cfg .ram a) [b]).emit (.invalidate a 1)
  | .cram => (s.storeBytes .cram (bankOffset s.cfg .cram a) [b]).emit (.invalidate a 1)
  | .dev => s.emit (.devRegWrite a (.b8 b))
  | .dma => s
  | .unmapped => s

/-- `dma_read32(a)`: four 8-bit bus reads in ascending address order, the lowest address in the low bits (R109). -/
def dmaRead32 (a : Word) (s : State) : Word × State :=
  let (b0, s0) := busReadByte a s
  let (b1, s1) := busReadByte (a + 1#32) s0
  let (b2, s2) := busReadByte (a + 2#32) s1
  let (b3, s3) := busReadByte (a + 3#32) s2
  (b3 ++ b2 ++ b1 ++ b0, s3)

/-! ## The device port (R110) -/

/-- `DevIn(c)`: the next byte the device supplies, a draw where the environment has fixed none. -/
def devIn (c : ChannelIx) (s : State) : Byte × State :=
  match s.devInput[c] with
  | b :: q => (b, { s with devInput := s.devInput.set c q })
  | [] => (BitVec.ofNat 8 s.draw, s.drawn)

/-- `DevOut(c, b)`: an output event. -/
def devOut (c : ChannelIx) (b : Byte) (s : State) : State := s.emit (.devOut c b)

/-! ## The interrupt-flag sink: what stands where a processor has exceptions (R127, R128) -/

/-- What the history records of the level `irq_out` where it was `before` and is `after`: its change, if it changed (R23,
log entry 15). -/
def irqRecord (before after : Bool) : List Event := if before = after then [] else [.irqOut after]

/-- `isink.pending <- level`, the one operation that writes the sink; the level `irq_out` follows it (R119) and its change is
recorded (R23). -/
def State.setPending (s : State) (level : Bool) : State :=
  { s with pending := level, events := irqRecord s.pending level ++ s.events }

/-- `IntSignal()`: `isink.pending <- 1`, and nothing else in the block changes (R117, R127); the signal is also recorded
as an event (R117), before the level it raises (R125). -/
def intSignal (s : State) : State := (s.emit .intSignal).setPending true

/-- The acknowledge: `isink.pending <- 0` (R118). -/
def intAcknowledge (s : State) : State := s.setPending false

/-- `irq_out`, the level `isink.pending` (R119). The history records its changes (R23); that it records changes, and not the
level after each operation, is a DESIGN CHOICE (log entry 15). -/
def irqOut (s : State) : Bool := s.pending

end Sys2Proof.Machine
end

