-- ==== Sys2Proof/Machine/Flags.lean ====
section
/-! DEFINITION. Every flag of the block and what sets and clears it (R25): `busy`, `if[c]`, `isink.pending`. -/

namespace Sys2Proof.Machine

/-- A control word with its busy bit clear: `ctrl[24] <- 0`, every other bit kept (R111). -/
def clearBusy (ctrl : Word) : Word := ctrl &&& ~~~ctrlBusyMask

/-- `if[c] <- 1` (R111). -/
def State.setFlag (s : State) (c : ChannelIx) : State := { s with iflag := s.iflag.set c true }

/-- Channel `c`'s flag after a write of `v` to group `g`'s interrupt register: "writing 1 to a flag bit clears it",
"writing 0 leaves it unchanged" (R20, R92, R94). -/
def acknowledged (g : Fin 2) (v : Word) (c : ChannelIx) (flag : Bool) : Bool :=
  if inGroup g c && unpackAck v c then false else flag

/-- `complete(c)` (R111): the busy bit clears, `if[c]` is set whatever `ie[c]` and `mie` hold, and one signal is raised if
both enables are set at this moment. -/
def complete (c : ChannelIx) (s : State) : State :=
  let s' := (s.setCtrl c (clearBusy s.ch[c].ctrl)).setFlag c
  if s.ie[c] && s.mie then intSignal s' else s'

end Sys2Proof.Machine
end

