-- ==== Sys2Proof/WellFormed.lean ====
section
/-! DEFINITION. When a term of `Instr` is an operation: its operands meet the row's own condition. -/

namespace Sys2Proof

/-- The operands of an operation meet the condition of its row of the opcode table under a configuration: a BUS row's
address decodes to the row (R52, R53), and a TAG.LINK's next-pointer is not the terminator (R62). The other rows put no
condition on their operands. -/
def WellFormed (cfg : Config) (i : Instr) : Bool :=
  match i with
  | .rd8DmaBadaccess a => badAccess cfg .w8 a
  | .rd16DmaBadaccess a => badAccess cfg .w16 a
  | .rd64DmaBadaccess a => badAccess cfg .w64 a
  | .rd32DmaBadaccess a => badAccess cfg .w32 a
  | .wr8DmaBadaccess a _ => badAccess cfg .w8 a
  | .wr16DmaBadaccess a _ => badAccess cfg .w16 a
  | .wr64DmaBadaccess a _ => badAccess cfg .w64 a
  | .wr32DmaBadaccess a _ => badAccess cfg .w32 a
  | .rd32ChAddr _ => true
  | .wr32ChAddr _ _ => true
  | .rd32ChBcr _ => true
  | .wr32ChBcr _ _ => true
  | .rd32ChCtrl _ => true
  | .wr32ChCtrl _ _ => true
  | .rd32DmaReservedSlot _ => true
  | .wr32DmaReservedSlot _ _ => true
  | .rd32Dpcr => true
  | .wr32Dpcr _ => true
  | .rd32Dicr => true
  | .wr32Dicr _ => true
  | .rd32Dpcr2 => true
  | .wr32Dpcr2 _ => true
  | .rd32Dicr2 => true
  | .wr32Dicr2 _ => true
  | .rd32DmaReservedHigh a => reservedHigh cfg a
  | .wr32DmaReservedHigh a _ => reservedHigh cfg a
  | .rd8Ram a => decide (region cfg a 1 = .ram)
  | .rd16Ram a => decide (region cfg a 2 = .ram)
  | .rd32Ram a => decide (region cfg a 4 = .ram)
  | .rd64Ram a => decide (region cfg a 8 = .ram)
  | .wr8Ram a _ => decide (region cfg a 1 = .ram)
  | .wr16Ram a _ => decide (region cfg a 2 = .ram)
  | .wr32Ram a _ => decide (region cfg a 4 = .ram)
  | .wr64Ram a _ => decide (region cfg a 8 = .ram)
  | .rd8Cram a => decide (region cfg a 1 = .cram)
  | .rd16Cram a => decide (region cfg a 2 = .cram)
  | .rd32Cram a => decide (region cfg a 4 = .cram)
  | .rd64Cram a => decide (region cfg a 8 = .cram)
  | .wr8Cram a _ => decide (region cfg a 1 = .cram)
  | .wr16Cram a _ => decide (region cfg a 2 = .cram)
  | .wr32Cram a _ => decide (region cfg a 4 = .cram)
  | .wr64Cram a _ => decide (region cfg a 8 = .cram)
  | .rd8Dev a => decide (region cfg a 1 = .dev)
  | .rd16Dev a => decide (region cfg a 2 = .dev)
  | .rd32Dev a => decide (region cfg a 4 = .dev)
  | .rd64Dev a => decide (region cfg a 8 = .dev)
  | .wr8Dev a _ => decide (region cfg a 1 = .dev)
  | .wr16Dev a _ => decide (region cfg a 2 = .dev)
  | .wr32Dev a _ => decide (region cfg a 4 = .dev)
  | .wr64Dev a _ => decide (region cfg a 8 = .dev)
  | .rd8Unmapped a => decide (region cfg a 1 = .unmapped)
  | .rd16Unmapped a => decide (region cfg a 2 = .unmapped)
  | .rd32Unmapped a => decide (region cfg a 4 = .unmapped)
  | .rd64Unmapped a => decide (region cfg a 8 = .unmapped)
  | .wr8Unmapped a _ => decide (region cfg a 1 = .unmapped)
  | .wr16Unmapped a _ => decide (region cfg a 2 = .unmapped)
  | .wr32Unmapped a _ => decide (region cfg a 4 = .unmapped)
  | .wr64Unmapped a _ => decide (region cfg a 8 = .unmapped)
  | .tick => true
  | .reset => true
  | .intack => true
  | .unitBurst _ _ => true
  | .unitBlock _ _ => true
  | .unitList _ _ => true
  | .unitReserved _ _ => true
  | .tagLast _ _ => true
  | .tagLink _ _ next => decide (next ≠ terminator)

end Sys2Proof
end

