-- ==== Sys2Proof/Machine/BusAccess.lean ====
section
/-! DEFINITION. Bus accesses that do not end in a DMA register (spec/40_bus_access.md): RAM, CRAM, DEV, UNMAPPED. -/

namespace Sys2Proof.Machine

/-! ## Shared by the rows -/

/-- A read that is performed if its operands are those of its row: it changes nothing and answers the value (R71, R73). -/
def readBank (b : Bank) (w : Width) (a : Word) (s : State) : Host.Outcome State Fault Refusal :=
  if region s.cfg a w.bytes = b.region then
    .next (s.answerWith (some (.read .ok
      (BusData.ofNat w (leValue (s.readBytes b (bankOffset s.cfg b a) w.bytes))))))
  else .refused .operandsNotOfRow

/-- A write into RAM or CRAM: the bytes are stored, then `Invalidate(a, w/8)` is emitted, whether or not the bytes differ
from those there (R72, R74, R46). -/
def writeBank (b : Bank) (a : Word) (d : BusData) (s : State) : Host.Outcome State Fault Refusal :=
  if region s.cfg a d.width.bytes = b.region then
    .next (((s.storeBytes b (bankOffset s.cfg b a) d.bytes).emit (.invalidate a d.width.bytes)).answerWith
      (some (.write .ok)))
  else .refused .operandsNotOfRow

/-- A read that answers a status and a draw and changes nothing else (R75, R77, R95, R97); `isRow` says whether the
operands are the row's. -/
def readDraw (isRow : Bool) (status : Status) (w : Width) (s : State) : Host.Outcome State Fault Refusal :=
  if isRow then .next (s.drawn.answerWith (some (.read status (BusData.ofNat w s.draw))))
  else .refused .operandsNotOfRow

/-- A write that answers a status and is discarded (R78, R96, R98). -/
def writeDiscard (isRow : Bool) (status : Status) (s : State) : Host.Outcome State Fault Refusal :=
  if isRow then .next (s.answerWith (some (.write status)))
  else .refused .operandsNotOfRow

/-- A write forwarded to the device-register set: the event `DevRegWrite(w, a, v)` and nothing else (R76). -/
def writeDevice (a : Word) (d : BusData) (s : State) : Host.Outcome State Fault Refusal :=
  if region s.cfg a d.width.bytes = .dev then
    .next ((s.emit (.devRegWrite a d)).answerWith (some (.write .ok)))
  else .refused .operandsNotOfRow

/-! ## The rows -/

/-- `RD8.RAM` (R71). -/
def execRd8Ram (a : Word) (s : State) : Host.Outcome State Fault Refusal :=
  readBank .ram .w8 a s

/-- `RD16.RAM` (R71). -/
def execRd16Ram (a : Word) (s : State) : Host.Outcome State Fault Refusal :=
  readBank .ram .w16 a s

/-- `RD32.RAM` (R71). -/
def execRd32Ram (a : Word) (s : State) : Host.Outcome State Fault Refusal :=
  readBank .ram .w32 a s

/-- `RD64.RAM` (R71). -/
def execRd64Ram (a : Word) (s : State) : Host.Outcome State Fault Refusal :=
  readBank .ram .w64 a s

/-- `WR8.RAM` (R72). -/
def execWr8Ram (a : Word) (v : BitVec 8) (s : State) : Host.Outcome State Fault Refusal :=
  writeBank .ram a (.b8 v) s

/-- `WR16.RAM` (R72). -/
def execWr16Ram (a : Word) (v : BitVec 16) (s : State) : Host.Outcome State Fault Refusal :=
  writeBank .ram a (.b16 v) s

/-- `WR32.RAM` (R72). -/
def execWr32Ram (a : Word) (v : BitVec 32) (s : State) : Host.Outcome State Fault Refusal :=
  writeBank .ram a (.b32 v) s

/-- `WR64.RAM` (R72). -/
def execWr64Ram (a : Word) (v : BitVec 64) (s : State) : Host.Outcome State Fault Refusal :=
  writeBank .ram a (.b64 v) s

/-- `RD8.CRAM` (R73). -/
def execRd8Cram (a : Word) (s : State) : Host.Outcome State Fault Refusal :=
  readBank .cram .w8 a s

/-- `RD16.CRAM` (R73). -/
def execRd16Cram (a : Word) (s : State) : Host.Outcome State Fault Refusal :=
  readBank .cram .w16 a s

/-- `RD32.CRAM` (R73). -/
def execRd32Cram (a : Word) (s : State) : Host.Outcome State Fault Refusal :=
  readBank .cram .w32 a s

/-- `RD64.CRAM` (R73). -/
def execRd64Cram (a : Word) (s : State) : Host.Outcome State Fault Refusal :=
  readBank .cram .w64 a s

/-- `WR8.CRAM` (R74). -/
def execWr8Cram (a : Word) (v : BitVec 8) (s : State) : Host.Outcome State Fault Refusal :=
  writeBank .cram a (.b8 v) s

/-- `WR16.CRAM` (R74). -/
def execWr16Cram (a : Word) (v : BitVec 16) (s : State) : Host.Outcome State Fault Refusal :=
  writeBank .cram a (.b16 v) s

/-- `WR32.CRAM` (R74). -/
def execWr32Cram (a : Word) (v : BitVec 32) (s : State) : Host.Outcome State Fault Refusal :=
  writeBank .cram a (.b32 v) s

/-- `WR64.CRAM` (R74). -/
def execWr64Cram (a : Word) (v : BitVec 64) (s : State) : Host.Outcome State Fault Refusal :=
  writeBank .cram a (.b64 v) s

/-- `RD8.DEV` (R75). -/
def execRd8Dev (a : Word) (s : State) : Host.Outcome State Fault Refusal :=
  readDraw (decide (region s.cfg a 1 = .dev)) .ok .w8 s

/-- `RD16.DEV` (R75). -/
def execRd16Dev (a : Word) (s : State) : Host.Outcome State Fault Refusal :=
  readDraw (decide (region s.cfg a 2 = .dev)) .ok .w16 s

/-- `RD32.DEV` (R75). -/
def execRd32Dev (a : Word) (s : State) : Host.Outcome State Fault Refusal :=
  readDraw (decide (region s.cfg a 4 = .dev)) .ok .w32 s

/-- `RD64.DEV` (R75). -/
def execRd64Dev (a : Word) (s : State) : Host.Outcome State Fault Refusal :=
  readDraw (decide (region s.cfg a 8 = .dev)) .ok .w64 s

/-- `WR8.DEV` (R76). -/
def execWr8Dev (a : Word) (v : BitVec 8) (s : State) : Host.Outcome State Fault Refusal :=
  writeDevice a (.b8 v) s

/-- `WR16.DEV` (R76). -/
def execWr16Dev (a : Word) (v : BitVec 16) (s : State) : Host.Outcome State Fault Refusal :=
  writeDevice a (.b16 v) s

/-- `WR32.DEV` (R76). -/
def execWr32Dev (a : Word) (v : BitVec 32) (s : State) : Host.Outcome State Fault Refusal :=
  writeDevice a (.b32 v) s

/-- `WR64.DEV` (R76). -/
def execWr64Dev (a : Word) (v : BitVec 64) (s : State) : Host.Outcome State Fault Refusal :=
  writeDevice a (.b64 v) s

/-- `RD8.UNMAPPED` (R77). -/
def execRd8Unmapped (a : Word) (s : State) : Host.Outcome State Fault Refusal :=
  readDraw (decide (region s.cfg a 1 = .unmapped)) .unmapped .w8 s

/-- `RD16.UNMAPPED` (R77). -/
def execRd16Unmapped (a : Word) (s : State) : Host.Outcome State Fault Refusal :=
  readDraw (decide (region s.cfg a 2 = .unmapped)) .unmapped .w16 s

/-- `RD32.UNMAPPED` (R77). -/
def execRd32Unmapped (a : Word) (s : State) : Host.Outcome State Fault Refusal :=
  readDraw (decide (region s.cfg a 4 = .unmapped)) .unmapped .w32 s

/-- `RD64.UNMAPPED` (R77). -/
def execRd64Unmapped (a : Word) (s : State) : Host.Outcome State Fault Refusal :=
  readDraw (decide (region s.cfg a 8 = .unmapped)) .unmapped .w64 s

/-- `WR8.UNMAPPED` (R78). -/
def execWr8Unmapped (a : Word) (_v : BitVec 8) (s : State) : Host.Outcome State Fault Refusal :=
  writeDiscard (decide (region s.cfg a 1 = .unmapped)) .unmapped s

/-- `WR16.UNMAPPED` (R78). -/
def execWr16Unmapped (a : Word) (_v : BitVec 16) (s : State) : Host.Outcome State Fault Refusal :=
  writeDiscard (decide (region s.cfg a 2 = .unmapped)) .unmapped s

/-- `WR32.UNMAPPED` (R78). -/
def execWr32Unmapped (a : Word) (_v : BitVec 32) (s : State) : Host.Outcome State Fault Refusal :=
  writeDiscard (decide (region s.cfg a 4 = .unmapped)) .unmapped s

/-- `WR64.UNMAPPED` (R78). -/
def execWr64Unmapped (a : Word) (_v : BitVec 64) (s : State) : Host.Outcome State Fault Refusal :=
  writeDiscard (decide (region s.cfg a 8 = .unmapped)) .unmapped s

end Sys2Proof.Machine
end

