-- ==== Sys2Proof/Machine/DmaRegisters.lean ====
section
/-! DEFINITION. Operations on the DMAEngine's registers (spec/41_dma_registers.md): the channel registers, DPCR, DPCR2,
DICR, DICR2, the rejected accesses of the window, and the interface that takes the channel as a number (R99). -/

namespace Sys2Proof.Machine

/-! ## Shared by the rows -/

/-- A register read: it changes no state and answers `(OK, v)` (R81, R83, R85, R87, R89, R91, R93). -/
def readRegister (v : Word) (s : State) : Host.Outcome State Fault Refusal :=
  .next (s.answerWith (some (.read .ok (.b32 v))))

/-- A register write's answer, `OK` (R82, R84, R86, R88, R90, R92, R94). -/
def wroteRegister (s : State) : Host.Outcome State Fault Refusal :=
  .next (s.answerWith (some (.write .ok)))

/-- All assignments of a write of `v` to group `g`'s priority register, together: `prio[8g+i] <- v[4*i+2 : 4*i]`,
`en[8g+i] <- v[4*i+3]`; the other group keeps its values (R88, R90). -/
def writePriority (g : Fin 2) (v : Word) (s : State) : State :=
  { s with
    prio := Vector.ofFn fun c : ChannelIx => if inGroup g c then unpackPrio v c else s.prio[c]
    en := Vector.ofFn fun c : ChannelIx => if inGroup g c then unpackEn v c else s.en[c] }

/-- All assignments of a write of `v` to group `g`'s interrupt register, together: `ie[8g+i] <- v[16+i]`, `if[8g+i]`
cleared where `v[24+i] = 1`, and in group 0 `mie <- v[15]`. No signal is raised and `isink.pending` does not change (R92,
R94). -/
def writeInterrupt (g : Fin 2) (v : Word) (s : State) : State :=
  { s with
    ie := Vector.ofFn fun c : ChannelIx => if inGroup g c then unpackIe v c else s.ie[c]
    iflag := Vector.ofFn fun c : ChannelIx => acknowledged g v c s.iflag[c]
    mie := if g = 0 then v.getLsbD 15 else s.mie }

/-! ## The rows -/

/-- `RD8.DMA_BADACCESS` (R97). -/
def execRd8DmaBadaccess (a : Word) (s : State) : Host.Outcome State Fault Refusal :=
  readDraw (badAccess s.cfg .w8 a) .reject .w8 s

/-- `RD16.DMA_BADACCESS` (R97). -/
def execRd16DmaBadaccess (a : Word) (s : State) : Host.Outcome State Fault Refusal :=
  readDraw (badAccess s.cfg .w16 a) .reject .w16 s

/-- `RD64.DMA_BADACCESS` (R97). -/
def execRd64DmaBadaccess (a : Word) (s : State) : Host.Outcome State Fault Refusal :=
  readDraw (badAccess s.cfg .w64 a) .reject .w64 s

/-- `RD32.DMA_BADACCESS` (R97). -/
def execRd32DmaBadaccess (a : Word) (s : State) : Host.Outcome State Fault Refusal :=
  readDraw (badAccess s.cfg .w32 a) .reject .w32 s

/-- `WR8.DMA_BADACCESS` (R98). -/
def execWr8DmaBadaccess (a : Word) (_v : BitVec 8) (s : State) : Host.Outcome State Fault Refusal :=
  writeDiscard (badAccess s.cfg .w8 a) .reject s

/-- `WR16.DMA_BADACCESS` (R98). -/
def execWr16DmaBadaccess (a : Word) (_v : BitVec 16) (s : State) : Host.Outcome State Fault Refusal :=
  writeDiscard (badAccess s.cfg .w16 a) .reject s

/-- `WR64.DMA_BADACCESS` (R98). -/
def execWr64DmaBadaccess (a : Word) (_v : BitVec 64) (s : State) : Host.Outcome State Fault Refusal :=
  writeDiscard (badAccess s.cfg .w64 a) .reject s

/-- `WR32.DMA_BADACCESS` (R98). -/
def execWr32DmaBadaccess (a : Word) (_v : BitVec 32) (s : State) : Host.Outcome State Fault Refusal :=
  writeDiscard (badAccess s.cfg .w32 a) .reject s

/-- `RD32.CH_ADDR` (R81). -/
def execRd32ChAddr (c : ChannelIx) (s : State) : Host.Outcome State Fault Refusal :=
  readRegister s.ch[c].addr s

/-- `WR32.CH_ADDR` (R82). -/
def execWr32ChAddr (c : ChannelIx) (v : Word) (s : State) : Host.Outcome State Fault Refusal :=
  wroteRegister (s.setAddr c v)

/-- `RD32.CH_BCR` (R83). -/
def execRd32ChBcr (c : ChannelIx) (s : State) : Host.Outcome State Fault Refusal :=
  readRegister s.ch[c].bcr s

/-- `WR32.CH_BCR` (R84). -/
def execWr32ChBcr (c : ChannelIx) (v : Word) (s : State) : Host.Outcome State Fault Refusal :=
  wroteRegister (s.setBcr c v)

/-- `RD32.CH_CTRL` (R85). -/
def execRd32ChCtrl (c : ChannelIx) (s : State) : Host.Outcome State Fault Refusal :=
  readRegister s.ch[c].ctrl s

/-- `WR32.CH_CTRL` (R86). -/
def execWr32ChCtrl (c : ChannelIx) (v : Word) (s : State) : Host.Outcome State Fault Refusal :=
  wroteRegister (s.setCtrl c v)

/-- `RD32.DMA_RESERVED.SLOT` (R95). -/
def execRd32DmaReservedSlot (_c : ChannelIx) (s : State) : Host.Outcome State Fault Refusal :=
  readDraw true .reject .w32 s

/-- `WR32.DMA_RESERVED.SLOT` (R96). -/
def execWr32DmaReservedSlot (_c : ChannelIx) (_v : Word) (s : State) : Host.Outcome State Fault Refusal :=
  writeDiscard true .reject s

/-- `RD32.DPCR` (R87). -/
def execRd32Dpcr (s : State) : Host.Outcome State Fault Refusal :=
  readRegister (packPriority 0 s.prio s.en) s

/-- `WR32.DPCR` (R88). -/
def execWr32Dpcr (v : Word) (s : State) : Host.Outcome State Fault Refusal :=
  wroteRegister (writePriority 0 v s)

/-- `RD32.DICR` (R91). -/
def execRd32Dicr (s : State) : Host.Outcome State Fault Refusal :=
  readRegister (packInterrupt 0 s.ie s.iflag s.mie) s

/-- `WR32.DICR` (R92). -/
def execWr32Dicr (v : Word) (s : State) : Host.Outcome State Fault Refusal :=
  wroteRegister (writeInterrupt 0 v s)

/-- `RD32.DPCR2` (R89). -/
def execRd32Dpcr2 (s : State) : Host.Outcome State Fault Refusal :=
  readRegister (packPriority 1 s.prio s.en) s

/-- `WR32.DPCR2` (R90). -/
def execWr32Dpcr2 (v : Word) (s : State) : Host.Outcome State Fault Refusal :=
  wroteRegister (writePriority 1 v s)

/-- `RD32.DICR2` (R93). -/
def execRd32Dicr2 (s : State) : Host.Outcome State Fault Refusal :=
  readRegister (packInterrupt 1 s.ie s.iflag s.mie) s

/-- `WR32.DICR2` (R94). -/
def execWr32Dicr2 (v : Word) (s : State) : Host.Outcome State Fault Refusal :=
  wroteRegister (writeInterrupt 1 v s)

/-- `RD32.DMA_RESERVED.HIGH` (R95). -/
def execRd32DmaReservedHigh (a : Word) (s : State) : Host.Outcome State Fault Refusal :=
  readDraw (reservedHigh s.cfg a) .reject .w32 s

/-- `WR32.DMA_RESERVED.HIGH` (R96). -/
def execWr32DmaReservedHigh (a : Word) (_v : Word) (s : State) : Host.Outcome State Fault Refusal :=
  writeDiscard (reservedHigh s.cfg a) .reject s

/-! ## The numbered interface (R67, R99)

An interface that takes the channel as a number. In range it is the bus access the pseudo-operation expands to; "a number
outside 0..15 makes the operation a rejected one". -/

/-- A read of a channel register by channel number: out of range, `(REJECT, draw(32))` and no state change (R99). -/
def execNumberedRead (reg : ChannelReg) (c : Nat) (s : State) : Host.Outcome State Fault Refusal :=
  if h : c < 16 then
    match reg with
    | .addr => execRd32ChAddr ⟨c, h⟩ s
    | .bcr => execRd32ChBcr ⟨c, h⟩ s
    | .ctrl => execRd32ChCtrl ⟨c, h⟩ s
  else readDraw true .reject .w32 s

/-- A write of a channel register by channel number (`set_chan_addr`, `set_chan_block`, `set_chan_control`): out of range,
`REJECT` and no state change (R99). -/
def execNumberedWrite (reg : ChannelReg) (c : Nat) (v : Word) (s : State) : Host.Outcome State Fault Refusal :=
  if h : c < 16 then
    match reg with
    | .addr => execWr32ChAddr ⟨c, h⟩ v s
    | .bcr => execWr32ChBcr ⟨c, h⟩ v s
    | .ctrl => execWr32ChCtrl ⟨c, h⟩ v s
  else writeDiscard true .reject s

end Sys2Proof.Machine
end

