-- ==== Sys2Proof/Machine/Ports.lean ====
section
/-! DEFINITION. The PORT operations INTACK (R118) and RESET (R136). -/

namespace Sys2Proof.Machine

/-- `INTACK` (R118): "It touches no `if[c]`". -/
def execIntack (s : State) : Host.Outcome State Fault Refusal :=
  .next ((intAcknowledge s).answerWith none)

/-- The state a RESET leaves (R136): every register, flag, enable and priority 0 and the sink clear; every byte of RAM and
CRAM drawn anew. It emits no event; the history records a fall of `irq_out` (R23). The configuration is not state of the block (R23), and the schedule, the device's
bytes, the draws taken and the history are the environment's. -/
def resetState (s : State) : State :=
  { s.setPending State.reset.pending with
    ch := State.reset.ch
    prio := State.reset.prio
    en := State.reset.en
    ie := State.reset.ie
    iflag := State.reset.iflag
    mie := State.reset.mie
    ram := State.reset.ram
    cram := State.reset.cram
    memDraw := s.memDraw + 1 }

/-- `RESET` (R136). -/
def execReset (s : State) : Host.Outcome State Fault Refusal :=
  .next ((resetState s).answerWith none)

end Sys2Proof.Machine
end

