-- ==== Sys2Proof/Machine/Transfer.lean ====
section
/-! DEFINITION. The tick, the arbiter, the units of work and the list nodes (spec/42_dma_transfer.md). -/

namespace Sys2Proof.Machine

/-! ## The arbiter (R102, R103) -/

/-- `eligible(c)`: "enabled, busy, and has priority greater than zero" (R102). -/
def eligible (s : State) (c : ChannelIx) : Bool :=
  s.en[c] && ctrlBusy s.ch[c].ctrl && decide (s.prio[c] ≠ 0#3)

/-- The scan in rising channel order: a later eligible channel replaces the best so far only if its priority is larger, so
that ties go to the lowest index (R103). -/
def arbitrate (s : State) : List ChannelIx → Option ChannelIx → Option ChannelIx
  | [], best => best
  | c :: cs, best =>
    arbitrate s cs
      (if eligible s c then
        match best with
        | none => some c
        | some w => if s.prio[w] < s.prio[c] then some c else some w
      else best)

/-- The sixteen channels in rising order. -/
def channels : List ChannelIx := [0, 1, 2, 3, 4, 5, 6, 7, 8, 9, 10, 11, 12, 13, 14, 15]

/-- The channel a tick serves: none if no channel is eligible (R101), else the winner of R103, chosen afresh from the
current `prio`, `en` and busy bits. -/
def winner (s : State) : Option ChannelIx := arbitrate s channels none

/-! ## Moving bytes (R109) -/

/-- One byte between address `a` and channel `c`'s device port; the status of the bus access is discarded (R109). -/
def moveByte (c : ChannelIx) (a : Word) (dir : Direction) (s : State) : State :=
  match dir with
  | .fromDevice =>
    let (b, s') := devIn c s
    busWriteByte a b s'
  | .toDevice =>
    let (b, s') := busReadByte a s
    devOut c b s'

/-- `xfer(c, a, n, dir)`: `n` bytes, one byte per bus access, in ascending address order modulo `2^32` (R109). -/
def xfer (c : ChannelIx) (a : Word) (n : Nat) (dir : Direction) (s : State) : State :=
  match n with
  | 0 => s
  | n + 1 => xfer c (a + 1#32) n dir (moveByte c a dir s)

/-! ## The units of work -/

/-- One block of `size` bytes: moved, `addr` advanced modulo `2^32`, `count` decremented (R105, R106). -/
def moveBlock (c : ChannelIx) (dir : Direction) (s : State) : State :=
  ((xfer c s.ch[c].addr (bcrSize s.ch[c].bcr) dir s).setAddr c
    (s.ch[c].addr + BitVec.ofNat 32 (bcrSize s.ch[c].bcr))).setBcr c
    (bcrWithCount s.ch[c].bcr (bcrCount s.ch[c].bcr - 1))

/-- Channel `c` completes if `done` holds of its block-control register (R105, R106). -/
def completeIf (done : Word → Bool) (c : ChannelIx) (s : State) : State :=
  if done s.ch[c].bcr then complete c s else s

/-- The unit of work of burst mode (R105): "byte count exhausted", the byte count being `size * count`. -/
def unitBurst (c : ChannelIx) (dir : Direction) (s : State) : State :=
  completeIf (fun bcr => decide (bcrSize bcr * bcrCount bcr = 0)) c
    (if bcrSize s.ch[c].bcr ≠ 0 ∧ bcrCount s.ch[c].bcr ≠ 0 then moveBlock c dir s else s)

/-- The unit of work of block mode (R106): "block count exhausted". -/
def unitBlock (c : ChannelIx) (dir : Direction) (s : State) : State :=
  completeIf (fun bcr => decide (bcrCount bcr = 0)) c
    (if bcrCount s.ch[c].bcr ≠ 0 then moveBlock c dir s else s)

/-- The rest of a list node once its tag has been read at `a` (R107): the payload, the link, and the completion of a
terminator tag. -/
def listNode (c : ChannelIx) (dir : Direction) (a : Word) (tag : Word) (s : State) : State :=
  if tagNext tag = terminator then
    complete c ((xfer c (a + 4#32) (payloadBytes (tagLen tag)) dir s).setAddr c (nextAddress (tagNext tag)))
  else (xfer c (a + 4#32) (payloadBytes (tagLen tag)) dir s).setAddr c (nextAddress (tagNext tag))

/-- The unit of work of linked-list mode (R107): one node, its tag always read from memory. -/
def unitList (c : ChannelIx) (dir : Direction) (s : State) : State :=
  let a := s.ch[c].addr
  let (tag, s') := dmaRead32 a s
  listNode c dir a tag s'

/-- `unit(c)` (R104): the unit the control word's sync mode selects, with the direction read once at the start. A mode of 3
is refused (R108). -/
def runUnit (c : ChannelIx) (s : State) : Host.Outcome State Fault Refusal :=
  match ctrlSync s.ch[c].ctrl with
  | .burst => .next (unitBurst c (ctrlDir s.ch[c].ctrl) s)
  | .block => .next (unitBlock c (ctrlDir s.ch[c].ctrl) s)
  | .list => .next (unitList c (ctrlDir s.ch[c].ctrl) s)
  | .reserved => .refused .syncReserved

/-! ## The rows

A REG or TAG row is not an operation the environment can issue: it is what a TICK performs. Given as an operation of its own
it is the TICK whose winner selects it, and where the winner selects another row it is refused (log entry 11). -/

/-- Channel `c` is the tick's winner and its control word selects this mode and direction (R63, R103). -/
def selects (s : State) (c : ChannelIx) (sync : SyncMode) (dir : Direction) : Bool :=
  decide (winner s = some c) && decide (ctrlSync s.ch[c].ctrl = sync) && decide (ctrlDir s.ch[c].ctrl = dir)

/-- `TICK` (R101). It returns no status and no value. -/
def execTick (s : State) : Host.Outcome State Fault Refusal :=
  match winner s with
  | none => .next (s.answerWith none)
  | some c => runUnit c (s.answerWith none)

/-- `UNIT.BURST` (R105). -/
def execUnitBurst (c : ChannelIx) (dir : Direction) (s : State) : Host.Outcome State Fault Refusal :=
  if selects s c .burst dir then .next (unitBurst c dir (s.answerWith none)) else .refused .rowNotSelected

/-- `UNIT.BLOCK` (R106). -/
def execUnitBlock (c : ChannelIx) (dir : Direction) (s : State) : Host.Outcome State Fault Refusal :=
  if selects s c .block dir then .next (unitBlock c dir (s.answerWith none)) else .refused .rowNotSelected

/-- `UNIT.LIST` (R107). -/
def execUnitList (c : ChannelIx) (dir : Direction) (s : State) : Host.Outcome State Fault Refusal :=
  if selects s c .list dir then .next (unitList c dir (s.answerWith none)) else .refused .rowNotSelected

/-- `UNIT.RESERVED` (R108): the spec "defines no state after it" and has a model refuse it. -/
def execUnitReserved (_c : ChannelIx) (_dir : Direction) (_s : State) : Host.Outcome State Fault Refusal :=
  .refused .syncReserved

/-- The list node of a tick whose winner `c` is in linked-list mode and reads exactly this tag word. -/
def runTag (c : ChannelIx) (tag : Word) (s : State) : Host.Outcome State Fault Refusal :=
  if selects s c .list (ctrlDir s.ch[c].ctrl) then
    let (t, s') := dmaRead32 s.ch[c].addr (s.answerWith none)
    if t = tag then .next (listNode c (ctrlDir s.ch[c].ctrl) s.ch[c].addr tag s') else .refused .rowNotSelected
  else .refused .rowNotSelected

/-- `TAG.LAST` (R107, R62): the payload is moved, `addr <- 0x00FF_FFFF`, the channel completes. -/
def execTagLast (c : ChannelIx) (len : Byte) (s : State) : Host.Outcome State Fault Refusal :=
  runTag c (tagWord len terminator) s

/-- `TAG.LINK` (R107, R62): the payload is moved, `addr <- zext_32(next)`, the channel stays Active. A terminator is no
link. -/
def execTagLink (c : ChannelIx) (len : Byte) (next : BitVec 24) (s : State) : Host.Outcome State Fault Refusal :=
  if next = terminator then .refused .operandsNotOfRow else runTag c (tagWord len next) s

end Sys2Proof.Machine
end

