-- ==== Sys2Proof/Machine/Dispatch.lean ====
section
/-! DEFINITION. The dispatch: one arm per constructor of Instr, one direct call of its meaning. -/

namespace Sys2Proof.Machine

def exec (i : Instr) (s : State) : Host.Outcome State Fault Refusal :=
  match i with
  | .rd8DmaBadaccess a => Sys2Proof.Machine.execRd8DmaBadaccess a s
  | .rd16DmaBadaccess a => Sys2Proof.Machine.execRd16DmaBadaccess a s
  | .rd64DmaBadaccess a => Sys2Proof.Machine.execRd64DmaBadaccess a s
  | .rd32DmaBadaccess a => Sys2Proof.Machine.execRd32DmaBadaccess a s
  | .wr8DmaBadaccess a v => Sys2Proof.Machine.execWr8DmaBadaccess a v s
  | .wr16DmaBadaccess a v => Sys2Proof.Machine.execWr16DmaBadaccess a v s
  | .wr64DmaBadaccess a v => Sys2Proof.Machine.execWr64DmaBadaccess a v s
  | .wr32DmaBadaccess a v => Sys2Proof.Machine.execWr32DmaBadaccess a v s
  | .rd32ChAddr c => Sys2Proof.Machine.execRd32ChAddr c s
  | .wr32ChAddr c v => Sys2Proof.Machine.execWr32ChAddr c v s
  | .rd32ChBcr c => Sys2Proof.Machine.execRd32ChBcr c s
  | .wr32ChBcr c v => Sys2Proof.Machine.execWr32ChBcr c v s
  | .rd32ChCtrl c => Sys2Proof.Machine.execRd32ChCtrl c s
  | .wr32ChCtrl c v => Sys2Proof.Machine.execWr32ChCtrl c v s
  | .rd32DmaReservedSlot c => Sys2Proof.Machine.execRd32DmaReservedSlot c s
  | .wr32DmaReservedSlot c v => Sys2Proof.Machine.execWr32DmaReservedSlot c v s
  | .rd32Dpcr => Sys2Proof.Machine.execRd32Dpcr s
  | .wr32Dpcr v => Sys2Proof.Machine.execWr32Dpcr v s
  | .rd32Dicr => Sys2Proof.Machine.execRd32Dicr s
  | .wr32Dicr v => Sys2Proof.Machine.execWr32Dicr v s
  | .rd32Dpcr2 => Sys2Proof.Machine.execRd32Dpcr2 s
  | .wr32Dpcr2 v => Sys2Proof.Machine.execWr32Dpcr2 v s
  | .rd32Dicr2 => Sys2Proof.Machine.execRd32Dicr2 s
  | .wr32Dicr2 v => Sys2Proof.Machine.execWr32Dicr2 v s
  | .rd32DmaReservedHigh a => Sys2Proof.Machine.execRd32DmaReservedHigh a s
  | .wr32DmaReservedHigh a v => Sys2Proof.Machine.execWr32DmaReservedHigh a v s
  | .rd8Ram a => Sys2Proof.Machine.execRd8Ram a s
  | .rd16Ram a => Sys2Proof.Machine.execRd16Ram a s
  | .rd32Ram a => Sys2Proof.Machine.execRd32Ram a s
  | .rd64Ram a => Sys2Proof.Machine.execRd64Ram a s
  | .wr8Ram a v => Sys2Proof.Machine.execWr8Ram a v s
  | .wr16Ram a v => Sys2Proof.Machine.execWr16Ram a v s
  | .wr32Ram a v => Sys2Proof.Machine.execWr32Ram a v s
  | .wr64Ram a v => Sys2Proof.Machine.execWr64Ram a v s
  | .rd8Cram a => Sys2Proof.Machine.execRd8Cram a s
  | .rd16Cram a => Sys2Proof.Machine.execRd16Cram a s
  | .rd32Cram a => Sys2Proof.Machine.execRd32Cram a s
  | .rd64Cram a => Sys2Proof.Machine.execRd64Cram a s
  | .wr8Cram a v => Sys2Proof.Machine.execWr8Cram a v s
  | .wr16Cram a v => Sys2Proof.Machine.execWr16Cram a v s
  | .wr32Cram a v => Sys2Proof.Machine.execWr32Cram a v s
  | .wr64Cram a v => Sys2Proof.Machine.execWr64Cram a v s
  | .rd8Dev a => Sys2Proof.Machine.execRd8Dev a s
  | .rd16Dev a => Sys2Proof.Machine.execRd16Dev a s
  | .rd32Dev a => Sys2Proof.Machine.execRd32Dev a s
  | .rd64Dev a => Sys2Proof.Machine.execRd64Dev a s
  | .wr8Dev a v => Sys2Proof.Machine.execWr8Dev a v s
  | .wr16Dev a v => Sys2Proof.Machine.execWr16Dev a v s
  | .wr32Dev a v => Sys2Proof.Machine.execWr32Dev a v s
  | .wr64Dev a v => Sys2Proof.Machine.execWr64Dev a v s
  | .rd8Unmapped a => Sys2Proof.Machine.execRd8Unmapped a s
  | .rd16Unmapped a => Sys2Proof.Machine.execRd16Unmapped a s
  | .rd32Unmapped a => Sys2Proof.Machine.execRd32Unmapped a s
  | .rd64Unmapped a => Sys2Proof.Machine.execRd64Unmapped a s
  | .wr8Unmapped a v => Sys2Proof.Machine.execWr8Unmapped a v s
  | .wr16Unmapped a v => Sys2Proof.Machine.execWr16Unmapped a v s
  | .wr32Unmapped a v => Sys2Proof.Machine.execWr32Unmapped a v s
  | .wr64Unmapped a v => Sys2Proof.Machine.execWr64Unmapped a v s
  | .tick => Sys2Proof.Machine.execTick s
  | .reset => Sys2Proof.Machine.execReset s
  | .intack => Sys2Proof.Machine.execIntack s
  | .unitBurst c dir => Sys2Proof.Machine.execUnitBurst c dir s
  | .unitBlock c dir => Sys2Proof.Machine.execUnitBlock c dir s
  | .unitList c dir => Sys2Proof.Machine.execUnitList c dir s
  | .unitReserved c dir => Sys2Proof.Machine.execUnitReserved c dir s
  | .tagLast c len => Sys2Proof.Machine.execTagLast c len s
  | .tagLink c len next => Sys2Proof.Machine.execTagLink c len next s

end Sys2Proof.Machine
end

