-- ==== Sys2Proof/Machine/Step.lean ====
section
/-! DEFINITION. One step: the next operation of the schedule is applied, whole (R11, R43). -/

namespace Sys2Proof.Machine

/-- One operation of the environment, applied. -/
def applyInput (i : Input) (s : State) : Host.Outcome State Fault Refusal :=
  match i with
  | .record bytes =>
    match decode s.cfg bytes with
    | .ok op => exec op s
    | .error e => .refused (.undecodable e)
  | .numberedRead reg c => execNumberedRead reg c s
  | .numberedWrite reg c v => execNumberedWrite reg c v s

/-- The step: the next operation of the schedule runs from its first line to its last (R11) and leaves the schedule. With an
empty schedule nothing is applied and nothing changes: "nothing in this spec says a tick ever comes" (R44, log entry 5). -/
def step (s : State) : Host.Outcome State Fault Refusal :=
  match s.schedule with
  | [] => .next s
  | i :: rest => applyInput i { s with schedule := rest }

/-- The state with the record of the host's table word placed where `step` takes its next operation (log entry 7). -/
def State.withFetchWord (s : State) (nbits w : Nat) : State :=
  { s with schedule := .record (tableRecord nbits w) :: s.schedule }

end Sys2Proof.Machine
end

