-- ==== Sys2Proof/Machine/Inspect.lean ====
section
/-! DEFINITION. The inspector of R48: a read of any element of R13 between two operations. -/

namespace Sys2Proof.Machine

/-- The elements of R13. -/
inductive Element where
  | addr (c : ChannelIx)
  | bcr (c : ChannelIx)
  | ctrl (c : ChannelIx)
  | prio (c : ChannelIx)
  | en (c : ChannelIx)
  | ie (c : ChannelIx)
  | iflag (c : ChannelIx)
  | mie
  | pending
  | memory (b : Bank) (o : Nat)
deriving DecidableEq, Repr

/-- The element's current value, as an unsigned number. It is a function of the state: it "changes nothing", "returns no
status and emits no event" (R48). -/
def inspect (s : State) : Element → Nat
  | .addr c => s.ch[c].addr.toNat
  | .bcr c => s.ch[c].bcr.toNat
  | .ctrl c => s.ch[c].ctrl.toNat
  | .prio c => s.prio[c].toNat
  | .en c => s.en[c].toNat
  | .ie c => s.ie[c].toNat
  | .iflag c => s.iflag[c].toNat
  | .mie => s.mie.toNat
  | .pending => s.pending.toNat
  | .memory b o => (s.byteAt b o).toNat

end Sys2Proof.Machine
end

