-- ==== Sys2Proof/Safety.lean ====
section
/-! DEFINITION. The invariant of the model, what counts as a safe operation, and the terms the statements use. -/

namespace Sys2Proof.Machine

/-! ## The invariant -/

/-- The level `irq_out` by the history alone: the newest one recorded; low where none is, as after reset (R23, R26). -/
def recordedLevel : List Event → Bool
  | [] => false
  | .irqOut level :: _ => level
  | .invalidate _ _ :: es => recordedLevel es
  | .devOut _ _ :: es => recordedLevel es
  | .devRegWrite _ _ :: es => recordedLevel es
  | .intSignal :: es => recordedLevel es

/-- The entry is one of the level `irq_out`. -/
def Event.isLevel : Event → Bool
  | .irqOut _ => true
  | .invalidate _ _ => false
  | .devOut _ _ => false
  | .devRegWrite _ _ => false
  | .intSignal => false

/-- What every step keeps: the configuration is well formed (R7), each memory lists, in the canonical form, only bytes of its
own region (R22), and the history tells the level `irq_out` (R23). -/
def State.Inv (s : State) : Prop :=
  s.cfg.wf = true ∧
  Memory.wf s.ram ∧ Memory.within s.ram s.cfg.ramSize ∧
  Memory.wf s.cram ∧ Memory.within s.cram s.cfg.cramSize ∧
  recordedLevel s.events = irqOut s

/-! ## Safe operations -/

/-- No Active channel has the reserved sync mode: what R150 asks of software ("Never start `sync = 3`"). -/
def State.noReservedActive (s : State) : Prop :=
  ∀ c : ChannelIx, ctrlBusy s.ch[c].ctrl = true → ctrlSync s.ch[c].ctrl ≠ .reserved

/-- The operations the environment applies (R49, R51): formats BUS and PORT. The REG and TAG rows are what a TICK
performs. -/
def ofEnvironment (i : Instr) : Bool := decide (i.format = .bus) || decide (i.format = .port)

/-! ## The regions by their bounds (R32) -/

/-- The byte address `x` is one of region `r`'s, by the base and size of R32's table; `unmapped` is no region. -/
def inRegion (cfg : Config) (r : Region) (x : Nat) : Prop :=
  match r with
  | .ram => cfg.ramBase.toNat ≤ x ∧ x ≤ cfg.ramBase.toNat + cfg.ramSize - 1
  | .cram => cfg.cramBase.toNat ≤ x ∧ x ≤ cfg.cramBase.toNat + cfg.cramSize - 1
  | .dev => cfg.devBase.toNat ≤ x ∧ x ≤ cfg.devBase.toNat + cfg.devSize - 1
  | .dma => cfg.dmaBase.toNat ≤ x ∧ x ≤ cfg.dmaBase.toNat + 0x1FF
  | .unmapped => False

/-! ## Rows by region and width -/

/-- The read row of a region and a width; for the DMA window the BADACCESS row. -/
def readRow (r : Region) (w : Width) (a : Word) : Instr :=
  match r, w with
  | .ram, .w8 => .rd8Ram a
  | .ram, .w16 => .rd16Ram a
  | .ram, .w32 => .rd32Ram a
  | .ram, .w64 => .rd64Ram a
  | .cram, .w8 => .rd8Cram a
  | .cram, .w16 => .rd16Cram a
  | .cram, .w32 => .rd32Cram a
  | .cram, .w64 => .rd64Cram a
  | .dev, .w8 => .rd8Dev a
  | .dev, .w16 => .rd16Dev a
  | .dev, .w32 => .rd32Dev a
  | .dev, .w64 => .rd64Dev a
  | .dma, .w8 => .rd8DmaBadaccess a
  | .dma, .w16 => .rd16DmaBadaccess a
  | .dma, .w32 => .rd32DmaBadaccess a
  | .dma, .w64 => .rd64DmaBadaccess a
  | .unmapped, .w8 => .rd8Unmapped a
  | .unmapped, .w16 => .rd16Unmapped a
  | .unmapped, .w32 => .rd32Unmapped a
  | .unmapped, .w64 => .rd64Unmapped a

/-- The write row of a region and a width (the data's); for the DMA window the BADACCESS row. -/
def writeRow (r : Region) (a : Word) (d : BusData) : Instr :=
  match r, d with
  | .ram, .b8 v => .wr8Ram a v
  | .ram, .b16 v => .wr16Ram a v
  | .ram, .b32 v => .wr32Ram a v
  | .ram, .b64 v => .wr64Ram a v
  | .cram, .b8 v => .wr8Cram a v
  | .cram, .b16 v => .wr16Cram a v
  | .cram, .b32 v => .wr32Cram a v
  | .cram, .b64 v => .wr64Cram a v
  | .dev, .b8 v => .wr8Dev a v
  | .dev, .b16 v => .wr16Dev a v
  | .dev, .b32 v => .wr32Dev a v
  | .dev, .b64 v => .wr64Dev a v
  | .dma, .b8 v => .wr8DmaBadaccess a v
  | .dma, .b16 v => .wr16DmaBadaccess a v
  | .dma, .b32 v => .wr32DmaBadaccess a v
  | .dma, .b64 v => .wr64DmaBadaccess a v
  | .unmapped, .b8 v => .wr8Unmapped a v
  | .unmapped, .b16 v => .wr16Unmapped a v
  | .unmapped, .b32 v => .wr32Unmapped a v
  | .unmapped, .b64 v => .wr64Unmapped a v

/-! ## What a transfer does (R109) -/

/-- The address of the `i`-th byte of a transfer from `a`: `a +32 i`. -/
def transferAddress (a : Word) (i : Nat) : Word := a + BitVec.ofNat 32 i

/-- A from-device transfer of `n` bytes from `a` stores to byte `o` of memory `b`. -/
def storesTo (cfg : Config) (a : Word) (n : Nat) (b : Bank) (o : Nat) : Prop :=
  ∃ i, i < n ∧ region cfg (transferAddress a i) 1 = b.region ∧ bankOffset cfg b (transferAddress a i) = o

/-- The `i`-th byte channel `c`'s device port will answer: what the environment has fixed, then fresh draws (R110). -/
def deviceByte (s : State) (c : ChannelIx) (i : Nat) : Byte :=
  match s.devInput[c][i]? with
  | some b => b
  | none => BitVec.ofNat 8 (Config.freeValue (s.draws + (i - s.devInput[c].length))).toNat

/-- The events of a from-device transfer's byte at `a`: `Invalidate` where it is stored, `DevRegWrite` where it is
forwarded, nothing where it is lost (R109). -/
def byteWriteEvents (cfg : Config) (a : Word) (b : Byte) : List Event :=
  match region cfg a 1 with
  | .ram => [.invalidate a 1]
  | .cram => [.invalidate a 1]
  | .dev => [.devRegWrite a (.b8 b)]
  | .dma => []
  | .unmapped => []

/-- What moving `n` bytes between address `a` and channel `c`'s device port does to the memories, the device port and the
history, `moved` being the events in order (R109). From device: byte `i` goes to address `a +32 i`, and every other byte
of memory reads as before. To device: no byte of memory changes, and the port is handed the `n` bytes of memory in
ascending address order (a byte that is not in RAM or CRAM is a draw, of which nothing is said). -/
def MovedBytes (s t : State) (c : ChannelIx) (a : Word) (n : Nat) (dir : Direction) (moved : List Event) : Prop :=
  match dir with
  | .fromDevice =>
    (∀ (b : Bank) (i : Nat), i < n → region s.cfg (transferAddress a i) 1 = b.region →
      t.byteAt b (bankOffset s.cfg b (transferAddress a i)) = deviceByte s c i) ∧
    (∀ (b : Bank) (o : Nat), ¬ storesTo s.cfg a n b o → t.byteAt b o = s.byteAt b o) ∧
    (t.devInput[c] = s.devInput[c].drop n ∧ ∀ c' : ChannelIx, c' ≠ c → t.devInput[c'] = s.devInput[c']) ∧
    moved = (List.range n).flatMap
      (fun i => byteWriteEvents s.cfg (transferAddress a i) (deviceByte s c i))
  | .toDevice =>
    (∀ (b : Bank) (o : Nat), t.byteAt b o = s.byteAt b o) ∧
    t.devInput = s.devInput ∧
    ∃ bytes : List Byte, bytes.length = n ∧ moved = bytes.map (Event.devOut c) ∧
      ∀ (b : Bank) (i : Nat), i < n → region s.cfg (transferAddress a i) 1 = b.region →
        bytes[i]? = some (s.byteAt b (bankOffset s.cfg b (transferAddress a i)))

/-- What no unit of work for channel `c` changes: the other channels' registers, every priority and enable, the
configuration, the schedule and which reset the memories were drawn at. -/
def EngineFrame (s t : State) (c : ChannelIx) : Prop :=
  (∀ c' : ChannelIx, c' ≠ c → t.ch[c'] = s.ch[c']) ∧
  t.prio = s.prio ∧ t.en = s.en ∧ t.ie = s.ie ∧ t.mie = s.mie ∧
  t.cfg = s.cfg ∧ t.schedule = s.schedule ∧ t.memDraw = s.memDraw ∧ s.draws ≤ t.draws

/-- Channel `c` has completed between `s` and `t` (R111): busy clear and the rest of the control word kept, its flag set and
the others kept, and the sink pending if it was or if both enables are set. -/
def Completes (s t : State) (c : ChannelIx) : Prop :=
  t.ch[c].ctrl = clearBusy s.ch[c].ctrl ∧
  (∀ c' : ChannelIx, t.iflag[c'] = if c' = c then true else s.iflag[c']) ∧
  t.pending = (s.pending || (s.ie[c] && s.mie))

/-- Channel `c` has not completed between `s` and `t`: control word, flags and sink are as they were. -/
def StaysActive (s t : State) (c : ChannelIx) : Prop :=
  t.ch[c].ctrl = s.ch[c].ctrl ∧ t.iflag = s.iflag ∧ t.pending = s.pending

/-- What a completion of channel `c` adds to the history: where both enables are set, the signal and then the rise of
`irq_out`, if it was low (R111, R117, R23). -/
def completionEvents (s : State) (c : ChannelIx) : List Event :=
  if s.ie[c] && s.mie then irqRecord s.pending true ++ [.intSignal] else []

/-! ## Runs of ticks -/

/-- `TICK k` (R67): TICK repeated `k` times, with nothing between. -/
def runTicks : Nat → State → Host.Outcome State Fault Refusal
  | 0, s => .next s
  | k + 1, s =>
    match exec .tick s with
    | .next t => runTicks k t
    | .fault r => .fault r
    | .refused r => .refused r

end Sys2Proof.Machine
end

