-- ==== Sys2Proof/Certificates/Slice0/Obligations.lean ====
section
/-! DEFINITION. The statements for the provers. -/

open Sys2Proof Sys2Proof.Machine

/-! ## Memory and the Bus (spec/20_memory.md, spec/40_bus_access.md) -/

/-- R32, R33. Under a well-formed configuration the region of an access of one of the four widths is the one region whose
addresses, by the base and size of R32, contain every byte address `a, a+1, ..., a+n-1`, computed without wrap-around; if no
region contains them all (the bytes straddle two regions, or leave a region), or if `a + n - 1 > 0xFFFF_FFFF`, it is
`unmapped`. -/
def Obligations.RegionHoldsEveryByteOrIsUnmapped : Prop :=
  ∀ (cfg : Config) (a : Word) (w : Width), cfg.wf = true →
    (∀ r : Region, r ≠ .unmapped →
      (region cfg a w.bytes = r ↔ ∀ i, i < w.bytes → inRegion cfg r (a.toNat + i))) ∧
    (region cfg a w.bytes = .unmapped ↔ ∀ r : Region, ∃ i, i < w.bytes ∧ ¬ inRegion cfg r (a.toNat + i)) ∧
    (0xFFFFFFFF < a.toNat + w.bytes - 1 → region cfg a w.bytes = .unmapped)

/-- R32, R34. Under a well-formed configuration each byte of RAM and CRAM appears at exactly one address: byte `o` of a
memory stands at the base plus `o` and at no other address. -/
def Obligations.EachMemoryByteHasOneAddress : Prop :=
  ∀ (cfg : Config) (b : Bank) (o : Nat), cfg.wf = true → o < b.size cfg →
    ∃ a : Word, (a.toNat = (b.base cfg).toNat + o ∧ region cfg a 1 = b.region ∧ bankOffset cfg b a = o) ∧
      ∀ a' : Word, region cfg a' 1 = b.region → bankOffset cfg b a' = o → a' = a

/-- R71, R73 (with R35, R37): a read of RAM or CRAM of any width answers `OK` and the bytes of that memory assembled
little-endian, and changes no state of the block. Rows RD8/16/32/64.RAM and RD8/16/32/64.CRAM, which the router selects
for it. The value is named by its bytes: byte `i` of the value is the byte at index `a - B + i`. -/
def Obligations.RamAndCramReadsAnswerTheirBytes : Prop :=
  ∀ (s : State) (b : Bank) (w : Width) (a : Word), region s.cfg a w.bytes = b.region →
    decodeRead s.cfg w a = readRow b.region w a ∧
    ∃ d : BusData, d.width = w ∧
      (∀ i, i < w.bytes → d.toNat / 2 ^ (8 * i) % 256 = (s.byteAt b (bankOffset s.cfg b a + i)).toNat) ∧
      exec (readRow b.region w a) s = .next { s with answer := some (.read .ok d) }

/-- R72, R74 (with R37): a write into RAM or CRAM of any width stores the bytes of the value little-endian, emits one
`Invalidate(a, w/8)` and answers `OK`. Rows WR8/16/32/64.RAM and WR8/16/32/64.CRAM, which the router selects for it.
Frame: every byte of either memory outside the stored bytes reads as before, and nothing else changes but the answer and
the history. -/
def Obligations.RamAndCramWritesStoreTheirBytes : Prop :=
  ∀ (s : State) (b : Bank) (a : Word) (d : BusData), region s.cfg a d.width.bytes = b.region →
    decodeWrite s.cfg a d = writeRow b.region a d ∧
    ∃ t : State, exec (writeRow b.region a d) s = .next t ∧
      (∀ i, i < d.width.bytes →
        (t.byteAt b (bankOffset s.cfg b a + i)).toNat = d.toNat / 2 ^ (8 * i) % 256) ∧
      (∀ (b' : Bank) (o : Nat),
        b' ≠ b ∨ o < bankOffset s.cfg b a ∨ bankOffset s.cfg b a + d.width.bytes ≤ o →
        t.byteAt b' o = s.byteAt b' o) ∧
      t = { s with
        ram := t.ram, cram := t.cram, answer := some (.write .ok),
        events := .invalidate a d.width.bytes :: s.events }

/-- R75, R76: an access to DEV is forwarded and answers `OK`. A read answers a draw (the free value of log entry 3) and
changes no state of the block; a write is the event `DevRegWrite(w, a, v)`, emits no `Invalidate` and changes no state of
the block. Rows RD<w>.DEV and WR<w>.DEV, which the router selects for it. -/
def Obligations.DeviceAccessesAreForwarded : Prop :=
  (∀ (s : State) (w : Width) (a : Word), region s.cfg a w.bytes = .dev →
    decodeRead s.cfg w a = readRow .dev w a ∧
    exec (readRow .dev w a) s = .next { s with
      draws := s.draws + 1,
      answer := some (.read .ok (BusData.ofNat w (Config.freeValue s.draws).toNat)) }) ∧
  ∀ (s : State) (a : Word) (d : BusData), region s.cfg a d.width.bytes = .dev →
    decodeWrite s.cfg a d = writeRow .dev a d ∧
    exec (writeRow .dev a d) s = .next { s with
      events := .devRegWrite a d :: s.events, answer := some (.write .ok) }

/-- R77, R78: an access that no single region holds answers `UNMAPPED`; a read answers a draw (log entry 3); a write is
discarded. No state of the block changes, no event is emitted. Rows RD<w>.UNMAPPED and WR<w>.UNMAPPED, which
the router selects for it. -/
def Obligations.UnmappedAccessesChangeNothing : Prop :=
  (∀ (s : State) (w : Width) (a : Word), region s.cfg a w.bytes = .unmapped →
    decodeRead s.cfg w a = readRow .unmapped w a ∧
    exec (readRow .unmapped w a) s = .next { s with
      draws := s.draws + 1,
      answer := some (.read .unmapped (BusData.ofNat w (Config.freeValue s.draws).toNat)) }) ∧
  ∀ (s : State) (a : Word) (d : BusData), region s.cfg a d.width.bytes = .unmapped →
    decodeWrite s.cfg a d = writeRow .unmapped a d ∧
    exec (writeRow .unmapped a d) s = .next { s with answer := some (.write .unmapped) }

/-- R36: an access of one width sees exactly the bytes that accesses of other widths left. After a write of any width and
value into RAM or CRAM, a read of any width from the same memory answers, byte by byte, the written byte where the write
stored one and else the byte that was there before. The rule's own example is the case of `0x4433_2211` written at `a` and
read at `a + 1`, `a + 2` and `a`. -/
def Obligations.MixedWidthsSeeTheSameBytes : Prop :=
  ∀ (s : State) (b : Bank) (a : Word) (d : BusData) (a' : Word) (w : Width),
    region s.cfg a d.width.bytes = b.region → region s.cfg a' w.bytes = b.region →
    ∃ (t u : State) (v : BusData),
      exec (writeRow b.region a d) s = .next t ∧ exec (readRow b.region w a') t = .next u ∧
      u.answer = some (.read .ok v) ∧ v.width = w ∧
      ∀ i, i < w.bytes → v.toNat / 2 ^ (8 * i) % 256 =
        if a.toNat ≤ a'.toNat + i ∧ a'.toNat + i < a.toNat + d.width.bytes then
          d.toNat / 2 ^ (8 * (a'.toNat + i - a.toNat)) % 256
        else (s.byteAt b (bankOffset s.cfg b a' + i)).toNat

/-- R47, R109: the engine's memory-side accesses are ordinary 8-bit bus accesses. For every address and state, the row
the router selects for `BusRead(8, a)` answers the byte the engine takes and leaves the state the engine leaves, and the
row it selects for `BusWrite(8, a, b)` leaves the state the engine's write leaves; only the answer, the status among it, is
discarded. -/
def Obligations.EngineAccessesAreBusAccesses : Prop :=
  (∀ (s : State) (a : Word), ∃ st : Status,
    exec (decodeRead s.cfg .w8 a) s =
      .next { (busReadByte a s).2 with answer := some (.read st (.b8 (busReadByte a s).1)) }) ∧
  ∀ (s : State) (a : Word) (b : Byte), ∃ st : Status,
    exec (decodeWrite s.cfg a (.b8 b)) s =
      .next { busWriteByte a b s with answer := some (.write st) }

/-! ## Registers of the DMA window (spec/41_dma_registers.md) -/

/-- R81, R83, R85: a read of a channel register answers `OK` and the register, all 32 bits, and changes nothing. Under a
well-formed configuration it is the 32-bit read at the register's address. -/
def Obligations.ChannelRegisterReadsAnswerTheRegister : Prop :=
  ∀ (s : State) (c : ChannelIx),
    exec (.rd32ChAddr c) s = .next { s with answer := some (.read .ok (.b32 s.ch[c].addr)) } ∧
    exec (.rd32ChBcr c) s = .next { s with answer := some (.read .ok (.b32 s.ch[c].bcr)) } ∧
    exec (.rd32ChCtrl c) s = .next { s with answer := some (.read .ok (.b32 s.ch[c].ctrl)) } ∧
    (s.cfg.wf = true →
      decodeRead s.cfg .w32 (dmaAddress s.cfg (0x10 * c.val)) = .rd32ChAddr c ∧
      decodeRead s.cfg .w32 (dmaAddress s.cfg (0x10 * c.val + 4)) = .rd32ChBcr c ∧
      decodeRead s.cfg .w32 (dmaAddress s.cfg (0x10 * c.val + 8)) = .rd32ChCtrl c)

/-- R82, R84, R86: a write of a channel register stores all 32 bits in every state of the channel and answers `OK`.
Frame: the channel's other two registers, every other channel, every flag, enable and priority, the sink, memory and the
history are unchanged; the write moves no data and raises no signal. Under a well-formed configuration it is the 32-bit
write at the register's address. -/
def Obligations.ChannelRegisterWritesStoreTheValue : Prop :=
  ∀ (s : State) (c : ChannelIx) (v : Word),
    (∃ t, exec (.wr32ChAddr c v) s = .next t ∧ t = { s with ch := t.ch, answer := some (.write .ok) } ∧
      ∀ c' : ChannelIx, t.ch[c'] = if c' = c then { s.ch[c] with addr := v } else s.ch[c']) ∧
    (∃ t, exec (.wr32ChBcr c v) s = .next t ∧ t = { s with ch := t.ch, answer := some (.write .ok) } ∧
      ∀ c' : ChannelIx, t.ch[c'] = if c' = c then { s.ch[c] with bcr := v } else s.ch[c']) ∧
    (∃ t, exec (.wr32ChCtrl c v) s = .next t ∧ t = { s with ch := t.ch, answer := some (.write .ok) } ∧
      ∀ c' : ChannelIx, t.ch[c'] = if c' = c then { s.ch[c] with ctrl := v } else s.ch[c']) ∧
    (s.cfg.wf = true →
      decodeWrite s.cfg (dmaAddress s.cfg (0x10 * c.val)) (.b32 v) = .wr32ChAddr c v ∧
      decodeWrite s.cfg (dmaAddress s.cfg (0x10 * c.val + 4)) (.b32 v) = .wr32ChBcr c v ∧
      decodeWrite s.cfg (dmaAddress s.cfg (0x10 * c.val + 8)) (.b32 v) = .wr32ChCtrl c v)

/-- R87, R89: a read of DPCR or DPCR2 answers, for each of its eight channels `c = 8*g + i`, `prio[c]` in bits
`[4*i+2 : 4*i]` and `en[c]` in bit `4*i+3`, and changes nothing. Under a well-formed configuration it is the 32-bit read
at `DMA_BASE + 0x100`, `DMA_BASE + 0x108`. -/
def Obligations.PriorityReadsPackTheNibbles : Prop :=
  ∀ s : State,
    (∃ v : Word, exec .rd32Dpcr s = .next { s with answer := some (.read .ok (.b32 v)) } ∧
      ∀ i : Fin 8, v.extractLsb' (4 * i.val) 3 = s.prio[groupChannel 0 i] ∧
        v.getLsbD (4 * i.val + 3) = s.en[groupChannel 0 i]) ∧
    (∃ v : Word, exec .rd32Dpcr2 s = .next { s with answer := some (.read .ok (.b32 v)) } ∧
      ∀ i : Fin 8, v.extractLsb' (4 * i.val) 3 = s.prio[groupChannel 1 i] ∧
        v.getLsbD (4 * i.val + 3) = s.en[groupChannel 1 i]) ∧
    (s.cfg.wf = true →
      decodeRead s.cfg .w32 (dmaAddress s.cfg 0x100) = .rd32Dpcr ∧
      decodeRead s.cfg .w32 (dmaAddress s.cfg 0x108) = .rd32Dpcr2)

/-- R88, R90: a write of DPCR or DPCR2 assigns the priority and enable of its eight channels from the nibbles, together,
and answers `OK`. Frame: the other group's eight channels and everything else are unchanged: the write starts nothing,
completes nothing, raises no signal. Under a well-formed configuration it is the 32-bit write at `DMA_BASE + 0x100`,
`DMA_BASE + 0x108`. -/
def Obligations.PriorityWritesAssignTheirGroup : Prop :=
  ∀ (s : State) (v : Word),
    (∃ t, exec (.wr32Dpcr v) s = .next t ∧
      (∀ i : Fin 8, t.prio[groupChannel 0 i] = v.extractLsb' (4 * i.val) 3 ∧
        t.en[groupChannel 0 i] = v.getLsbD (4 * i.val + 3) ∧
        t.prio[groupChannel 1 i] = s.prio[groupChannel 1 i] ∧ t.en[groupChannel 1 i] = s.en[groupChannel 1 i]) ∧
      t = { s with prio := t.prio, en := t.en, answer := some (.write .ok) }) ∧
    (∃ t, exec (.wr32Dpcr2 v) s = .next t ∧
      (∀ i : Fin 8, t.prio[groupChannel 1 i] = v.extractLsb' (4 * i.val) 3 ∧
        t.en[groupChannel 1 i] = v.getLsbD (4 * i.val + 3) ∧
        t.prio[groupChannel 0 i] = s.prio[groupChannel 0 i] ∧ t.en[groupChannel 0 i] = s.en[groupChannel 0 i]) ∧
      t = { s with prio := t.prio, en := t.en, answer := some (.write .ok) }) ∧
    (s.cfg.wf = true →
      decodeWrite s.cfg (dmaAddress s.cfg 0x100) (.b32 v) = .wr32Dpcr v ∧
      decodeWrite s.cfg (dmaAddress s.cfg 0x108) (.b32 v) = .wr32Dpcr2 v)

/-- R91, R93: a read of DICR or DICR2 answers `ie` in bits 23:16, `if` in bits 31:24, `mie` in bit 15 of DICR and 0 there
in DICR2, and 0 in bits 14:0; it acknowledges nothing and changes nothing. Under a well-formed configuration it is the
32-bit read at `DMA_BASE + 0x104`, `DMA_BASE + 0x10C`. -/
def Obligations.InterruptReadsPackEnablesAndFlags : Prop :=
  ∀ s : State,
    (∃ v : Word, exec .rd32Dicr s = .next { s with answer := some (.read .ok (.b32 v)) } ∧
      (∀ i : Fin 8, v.getLsbD (16 + i.val) = s.ie[groupChannel 0 i] ∧
        v.getLsbD (24 + i.val) = s.iflag[groupChannel 0 i]) ∧
      v.getLsbD 15 = s.mie ∧ v.extractLsb' 0 15 = 0#15) ∧
    (∃ v : Word, exec .rd32Dicr2 s = .next { s with answer := some (.read .ok (.b32 v)) } ∧
      (∀ i : Fin 8, v.getLsbD (16 + i.val) = s.ie[groupChannel 1 i] ∧
        v.getLsbD (24 + i.val) = s.iflag[groupChannel 1 i]) ∧
      v.extractLsb' 0 16 = 0#16) ∧
    (s.cfg.wf = true →
      decodeRead s.cfg .w32 (dmaAddress s.cfg 0x104) = .rd32Dicr ∧
      decodeRead s.cfg .w32 (dmaAddress s.cfg 0x10C) = .rd32Dicr2)

/-- R92, R94: a write of DICR or DICR2 assigns the group's eight enables, clears each of its flags whose bit is written 1
and leaves each whose bit is written 0; DICR also assigns `mie`, DICR2 does not. Frame: the other group's enables and
flags, `isink.pending`, the history and everything else are unchanged: no signal in any case. Under a well-formed
configuration it is the 32-bit write at `DMA_BASE + 0x104`, `DMA_BASE + 0x10C`. -/
def Obligations.InterruptWritesEnableAndAcknowledge : Prop :=
  ∀ (s : State) (v : Word),
    (∃ t, exec (.wr32Dicr v) s = .next t ∧
      (∀ i : Fin 8, t.ie[groupChannel 0 i] = v.getLsbD (16 + i.val) ∧
        t.iflag[groupChannel 0 i] = (s.iflag[groupChannel 0 i] && !v.getLsbD (24 + i.val)) ∧
        t.ie[groupChannel 1 i] = s.ie[groupChannel 1 i] ∧
        t.iflag[groupChannel 1 i] = s.iflag[groupChannel 1 i]) ∧
      t.mie = v.getLsbD 15 ∧
      t = { s with ie := t.ie, iflag := t.iflag, mie := t.mie, answer := some (.write .ok) }) ∧
    (∃ t, exec (.wr32Dicr2 v) s = .next t ∧
      (∀ i : Fin 8, t.ie[groupChannel 1 i] = v.getLsbD (16 + i.val) ∧
        t.iflag[groupChannel 1 i] = (s.iflag[groupChannel 1 i] && !v.getLsbD (24 + i.val)) ∧
        t.ie[groupChannel 0 i] = s.ie[groupChannel 0 i] ∧
        t.iflag[groupChannel 0 i] = s.iflag[groupChannel 0 i]) ∧
      t = { s with ie := t.ie, iflag := t.iflag, answer := some (.write .ok) }) ∧
    (s.cfg.wf = true →
      decodeWrite s.cfg (dmaAddress s.cfg 0x104) (.b32 v) = .wr32Dicr v ∧
      decodeWrite s.cfg (dmaAddress s.cfg 0x10C) (.b32 v) = .wr32Dicr2 v)

/-- R95, R96, R97, R98: an access that reaches the DMA window and names no register, or has the wrong width or alignment,
answers `REJECT`; a read answers a draw (log entry 3), a write is discarded; no state of the block changes. Rows
DMA_RESERVED.SLOT, DMA_RESERVED.HIGH and RD8/16/32/64, WR8/16/32/64 DMA_BADACCESS, which the router selects for it. -/
def Obligations.RejectedAccessesChangeNothing : Prop :=
  (∀ (s : State) (w : Width) (a : Word), region s.cfg a w.bytes = .dma →
    w ≠ .w32 ∨ (a.toNat - s.cfg.dmaBase.toNat) % 4 ≠ 0 →
    decodeRead s.cfg w a = readRow .dma w a ∧
    exec (readRow .dma w a) s = .next { s with
      draws := s.draws + 1,
      answer := some (.read .reject (BusData.ofNat w (Config.freeValue s.draws).toNat)) }) ∧
  (∀ (s : State) (a : Word) (d : BusData), region s.cfg a d.width.bytes = .dma →
    d.width ≠ .w32 ∨ (a.toNat - s.cfg.dmaBase.toNat) % 4 ≠ 0 →
    decodeWrite s.cfg a d = writeRow .dma a d ∧
    exec (writeRow .dma a d) s = .next { s with answer := some (.write .reject) }) ∧
  (∀ (s : State) (c : ChannelIx) (v : Word),
    exec (.rd32DmaReservedSlot c) s = .next { s with
      draws := s.draws + 1,
      answer := some (.read .reject (.b32 (BitVec.ofNat 32 (Config.freeValue s.draws).toNat))) } ∧
    exec (.wr32DmaReservedSlot c v) s = .next { s with answer := some (.write .reject) } ∧
    (s.cfg.wf = true →
      decodeRead s.cfg .w32 (dmaAddress s.cfg (0x10 * c.val + 0xC)) = .rd32DmaReservedSlot c ∧
      decodeWrite s.cfg (dmaAddress s.cfg (0x10 * c.val + 0xC)) (.b32 v) = .wr32DmaReservedSlot c v)) ∧
  ∀ (s : State) (a v : Word), region s.cfg a 4 = .dma → (a.toNat - s.cfg.dmaBase.toNat) % 4 = 0 →
    0x110 ≤ a.toNat - s.cfg.dmaBase.toNat →
    decodeRead s.cfg .w32 a = .rd32DmaReservedHigh a ∧ decodeWrite s.cfg a (.b32 v) = .wr32DmaReservedHigh a v ∧
    exec (.rd32DmaReservedHigh a) s = .next { s with
      draws := s.draws + 1,
      answer := some (.read .reject (.b32 (BitVec.ofNat 32 (Config.freeValue s.draws).toNat))) } ∧
    exec (.wr32DmaReservedHigh a v) s = .next { s with answer := some (.write .reject) }

/-- R99: through an interface that takes the channel as a number, a number outside 0..15 is rejected: a write answers
`REJECT` and changes nothing, a read answers `REJECT` and a draw (log entry 3) and changes nothing. Stated of `step` with the
call next in the schedule. That a number in 0..15 is the bus access of that channel is the model's choice (log entry 2): R86
names the control-word write so, R67 and R99 name its siblings, and the spec states no numbered read in range. -/
def Obligations.OutOfRangeChannelNumberIsRejected : Prop :=
  ∀ (s : State) (rest : List Input) (reg : ChannelReg) (c : Nat) (v : Word),
    (16 ≤ c →
      step { s with schedule := .numberedWrite reg c v :: rest } =
        .next { s with schedule := rest, answer := some (.write .reject) } ∧
      step { s with schedule := .numberedRead reg c :: rest } =
        .next { s with
          schedule := rest, draws := s.draws + 1,
          answer := some (.read .reject (.b32 (BitVec.ofNat 32 (Config.freeValue s.draws).toNat))) }) ∧
    ∀ h : c < 16,
      step { s with schedule := .numberedWrite .ctrl c v :: rest } =
        exec (.wr32ChCtrl ⟨c, h⟩ v) { s with schedule := rest } ∧
      step { s with schedule := .numberedWrite .addr c v :: rest } =
        exec (.wr32ChAddr ⟨c, h⟩ v) { s with schedule := rest } ∧
      step { s with schedule := .numberedWrite .bcr c v :: rest } =
        exec (.wr32ChBcr ⟨c, h⟩ v) { s with schedule := rest } ∧
      step { s with schedule := .numberedRead .ctrl c :: rest } =
        exec (.rd32ChCtrl ⟨c, h⟩) { s with schedule := rest } ∧
      step { s with schedule := .numberedRead .addr c :: rest } =
        exec (.rd32ChAddr ⟨c, h⟩) { s with schedule := rest } ∧
      step { s with schedule := .numberedRead .bcr c :: rest } =
        exec (.rd32ChBcr ⟨c, h⟩) { s with schedule := rest }

/-- R100: the laws of the packed views, for every value and every state. DPCR and DPCR2 are plain storage; so are the three
channel registers; a write of DICR or DICR2 leaves the enables written and the flags that were set and not acknowledged; a
read repeated with nothing between answers the same value. -/
def Obligations.PackedViewLaws : Prop :=
  ∀ (s : State) (c : ChannelIx) (v : Word),
    (∀ pair ∈ [(Instr.wr32Dpcr v, Instr.rd32Dpcr), (.wr32Dpcr2 v, .rd32Dpcr2),
        (.wr32ChAddr c v, .rd32ChAddr c), (.wr32ChBcr c v, .rd32ChBcr c), (.wr32ChCtrl c v, .rd32ChCtrl c)],
      ∃ t u, exec pair.1 s = .next t ∧ exec pair.2 t = .next u ∧ u.answer = some (.read .ok (.b32 v))) ∧
    (∃ r f t u, exec .rd32Dicr s = .next r ∧ r.answer = some (.read .ok (.b32 f)) ∧
      exec (.wr32Dicr v) r = .next t ∧ exec .rd32Dicr t = .next u ∧
      u.answer = some (.read .ok (.b32 ((v &&& 0x00FF8000#32) ||| (f &&& ~~~v &&& 0xFF000000#32))))) ∧
    (∃ r f t u, exec .rd32Dicr2 s = .next r ∧ r.answer = some (.read .ok (.b32 f)) ∧
      exec (.wr32Dicr2 v) r = .next t ∧ exec .rd32Dicr2 t = .next u ∧
      u.answer = some (.read .ok (.b32 ((v &&& 0x00FF0000#32) ||| (f &&& ~~~v &&& 0xFF000000#32))))) ∧
    ∀ i ∈ [Instr.rd32ChAddr c, .rd32ChBcr c, .rd32ChCtrl c, .rd32Dpcr, .rd32Dpcr2, .rd32Dicr, .rd32Dicr2],
      ∃ t, exec i s = .next t ∧ exec i t = .next t

/-! ## The tick, the arbiter, the units of work (spec/42_dma_transfer.md) -/

/-- R102, R103: a tick serves a channel exactly if some channel is enabled, busy and of priority greater than zero, and the
channel it serves is the one that every other eligible channel has a smaller priority than, or the same priority and a
larger index. -/
def Obligations.ArbiterPicksHighestPriorityLowestIndex : Prop :=
  ∀ s : State,
    (winner s = none ↔ ∀ c : ChannelIx, ¬ (s.en[c] = true ∧ s.ch[c].ctrl.getLsbD 24 = true ∧ 0 < s.prio[c].toNat)) ∧
    ∀ w : ChannelIx, winner s = some w ↔
      (s.en[w] = true ∧ s.ch[w].ctrl.getLsbD 24 = true ∧ 0 < s.prio[w].toNat) ∧
      ∀ c : ChannelIx, c ≠ w → (s.en[c] = true ∧ s.ch[c].ctrl.getLsbD 24 = true ∧ 0 < s.prio[c].toNat) →
        s.prio[c].toNat < s.prio[w].toNat ∨ (s.prio[c] = s.prio[w] ∧ w < c)

/-- R101, R104: a tick with no eligible channel changes nothing and returns nothing; a tick with a winner performs that
channel's unit of work, the one its control word selects. The winner is the `winner` that
ArbiterPicksHighestPriorityLowestIndex characterises. The unit is named by `exec` of the REG row that the control word
selects; that such a row, given as an operation of its own, is the tick is the model's choice (log entry 11). -/
def Obligations.TickRunsTheWinnersUnit : Prop :=
  ∀ s : State,
    (winner s = none → exec .tick s = .next { s with answer := none }) ∧
    ∀ c : ChannelIx, winner s = some c → exec .tick s = exec (decodeUnit c s.ch[c].ctrl) s

/-- R109 (with R110): `xfer` moves `n` bytes one byte per bus access in ascending address order, for every `n` up to
`2^32`; it changes no register, no flag, no enable and not the sink. -/
def Obligations.TransferMovesEachByte : Prop :=
  ∀ (s : State) (c : ChannelIx) (a : Word) (n : Nat) (dir : Direction), n ≤ 2 ^ 32 →
    ∃ moved : List Event,
      MovedBytes s (xfer c a n dir s) c a n dir moved ∧
      xfer c a n dir s = { s with
        ram := (xfer c a n dir s).ram, cram := (xfer c a n dir s).cram,
        draws := (xfer c a n dir s).draws, devInput := (xfer c a n dir s).devInput,
        events := moved.reverse ++ s.events }

/-- R111, R117: a completion clears the busy bit and keeps the rest of the control word, sets the channel's flag whatever
the enables hold, and raises one signal exactly if the channel's enable and the master enable are both set at that moment;
nothing else changes. Beside the signal the history gains the rise of `irq_out` it causes, if any (R23, in the model's form of
log entry 15). -/
def Obligations.CompletionSetsFlagAndGatesSignal : Prop :=
  ∀ (s : State) (c : ChannelIx),
    complete c s = { s with
      ch := (complete c s).ch, iflag := (complete c s).iflag,
      pending := s.pending || (s.ie[c] && s.mie), events := completionEvents s c ++ s.events } ∧
    (∀ c' : ChannelIx, (complete c s).iflag[c'] = if c' = c then true else s.iflag[c']) ∧
    (∀ c' : ChannelIx, c' ≠ c → (complete c s).ch[c'] = s.ch[c']) ∧
    (complete c s).ch[c].addr = s.ch[c].addr ∧ (complete c s).ch[c].bcr = s.ch[c].bcr ∧
    ∀ k, (complete c s).ch[c].ctrl.getLsbD k = (s.ch[c].ctrl.getLsbD k && decide (k ≠ 24))

/-- R105: the unit of burst mode, for either direction. With `size` and `count` nonzero it moves one block of `size` bytes,
advances `addr` by `size` modulo `2^32` and decrements `count`; with either 0 it moves nothing and changes neither
register. It completes exactly if the product of `size` and the count that remains is 0. That the row UNIT.BURST, given as an
operation of its own, is the tick whose winner selects it is the model's choice (log entry 11). -/
def Obligations.BurstUnitMovesOneBlock : Prop :=
  ∀ (s : State) (c : ChannelIx) (dir : Direction) (size count : Nat),
    winner s = some c → s.ch[c].ctrl.extractLsb' 9 2 = 0#2 → ctrlDir s.ch[c].ctrl = dir →
    size = (s.ch[c].bcr.extractLsb' 0 16).toNat → count = (s.ch[c].bcr.extractLsb' 16 16).toNat →
    ∃ (t : State) (moved : List Event),
      exec (.unitBurst c dir) s = .next t ∧ exec .tick s = .next t ∧ t.answer = none ∧
      EngineFrame s t c ∧
      (size ≠ 0 ∧ count ≠ 0 →
        MovedBytes s t c s.ch[c].addr size dir moved ∧
        t.ch[c].addr = s.ch[c].addr + BitVec.ofNat 32 size ∧
        t.ch[c].bcr = BitVec.ofNat 16 (count - 1) ++ BitVec.ofNat 16 size) ∧
      (size = 0 ∨ count = 0 →
        moved = [] ∧ t.ram = s.ram ∧ t.cram = s.cram ∧ t.devInput = s.devInput ∧ t.draws = s.draws ∧
        t.ch[c].addr = s.ch[c].addr ∧ t.ch[c].bcr = s.ch[c].bcr) ∧
      (size * (count - 1) = 0 →
        Completes s t c ∧ t.events = completionEvents s c ++ moved.reverse ++ s.events) ∧
      (size * (count - 1) ≠ 0 → StaysActive s t c ∧ t.events = moved.reverse ++ s.events)

/-- R106: the unit of block mode, for either direction. With `count` nonzero it moves one block of `size` bytes (none if
`size` is 0), advances `addr` by `size` modulo `2^32` and decrements `count`; with `count` 0 it moves nothing. It completes
exactly if the count that remains is 0. That the row UNIT.BLOCK, given as an operation of its own, is the tick whose winner
selects it is the model's choice (log entry 11). -/
def Obligations.BlockUnitMovesOneBlock : Prop :=
  ∀ (s : State) (c : ChannelIx) (dir : Direction) (size count : Nat),
    winner s = some c → s.ch[c].ctrl.extractLsb' 9 2 = 1#2 → ctrlDir s.ch[c].ctrl = dir →
    size = (s.ch[c].bcr.extractLsb' 0 16).toNat → count = (s.ch[c].bcr.extractLsb' 16 16).toNat →
    ∃ (t : State) (moved : List Event),
      exec (.unitBlock c dir) s = .next t ∧ exec .tick s = .next t ∧ t.answer = none ∧
      EngineFrame s t c ∧
      (count ≠ 0 →
        MovedBytes s t c s.ch[c].addr size dir moved ∧
        t.ch[c].addr = s.ch[c].addr + BitVec.ofNat 32 size ∧
        t.ch[c].bcr = BitVec.ofNat 16 (count - 1) ++ BitVec.ofNat 16 size) ∧
      (count = 0 →
        moved = [] ∧ t.ram = s.ram ∧ t.cram = s.cram ∧ t.devInput = s.devInput ∧ t.draws = s.draws ∧
        t.ch[c].addr = s.ch[c].addr ∧ t.ch[c].bcr = s.ch[c].bcr) ∧
      (count ≤ 1 → Completes s t c ∧ t.events = completionEvents s c ++ moved.reverse ++ s.events) ∧
      (1 < count → StaysActive s t c ∧ t.events = moved.reverse ++ s.events)

/-- R107: the unit of linked-list mode, for either direction. There is a tag word, each of whose four bytes that is in RAM or
CRAM is the byte of memory at `addr` and up (nothing is said of another, which is a draw); the payload of `4*len` bytes from
`addr + 4` moves, in the state with the draws of the tag read taken (at most four) and nothing else changed; `addr` is
replaced by the next-pointer zero-extended, `bcr` is unchanged, and the channel completes exactly if the next-pointer is
`0xFF_FFFF`. That the row UNIT.LIST, given as an operation of its own, is the tick whose winner selects it is the model's
choice (log entry 11). -/
def Obligations.ListUnitMovesOneNode : Prop :=
  ∀ (s : State) (c : ChannelIx) (dir : Direction),
    winner s = some c → s.ch[c].ctrl.extractLsb' 9 2 = 2#2 → ctrlDir s.ch[c].ctrl = dir →
    ∃ (t : State) (tag : Word) (draws : Nat) (moved : List Event),
      exec (.unitList c dir) s = .next t ∧ exec .tick s = .next t ∧ t.answer = none ∧
      s.draws ≤ draws ∧ draws ≤ s.draws + 4 ∧
      (∀ (b : Bank) (i : Nat), i < 4 → region s.cfg (transferAddress s.ch[c].addr i) 1 = b.region →
        tag.extractLsb' (8 * i) 8 = s.byteAt b (bankOffset s.cfg b (transferAddress s.ch[c].addr i))) ∧
      EngineFrame s t c ∧
      MovedBytes { s with draws := draws } t c (s.ch[c].addr + 4#32) (4 * (tag.extractLsb' 24 8).toNat) dir moved ∧
      t.ch[c].addr = 0#8 ++ tag.extractLsb' 0 24 ∧ t.ch[c].bcr = s.ch[c].bcr ∧
      (tag.extractLsb' 0 24 = 0xFFFFFF#24 →
        Completes s t c ∧ t.events = completionEvents s c ++ moved.reverse ++ s.events) ∧
      (tag.extractLsb' 0 24 ≠ 0xFFFFFF#24 → StaysActive s t c ∧ t.events = moved.reverse ++ s.events)

/-- R107, R62: the two TAG rows. Where the tick's winner is in linked-list mode and the four bytes at its `addr` are in RAM
or CRAM and are the tag `len`, `next`, the row that the tag selects runs and is the tick: TAG.LAST leaves
`addr = 0x00FF_FFFF` and completes the channel, TAG.LINK leaves `addr` at the next-pointer and the channel Active. That a TAG
row, given as an operation of its own, is the tick that selects it is the model's choice (log entry 11). A tag with bytes
outside RAM and CRAM, which are draws, is left to ListUnitMovesOneNode. -/
def Obligations.TagRowsAreTheTicksNode : Prop :=
  ∀ (s : State) (c : ChannelIx) (len : Byte) (next : BitVec 24) (bank : Nat → Bank),
    winner s = some c → s.ch[c].ctrl.extractLsb' 9 2 = 2#2 →
    (∀ i, i < 4 → region s.cfg (transferAddress s.ch[c].addr i) 1 = (bank i).region) →
    (∀ i, i < 4 → s.byteAt (bank i) (bankOffset s.cfg (bank i) (transferAddress s.ch[c].addr i)) =
      (len ++ next : Word).extractLsb' (8 * i) 8) →
    ∃ (t : State) (moved : List Event),
      exec .tick s = .next t ∧ t.answer = none ∧ EngineFrame s t c ∧
      MovedBytes s t c (s.ch[c].addr + 4#32) (4 * len.toNat) (ctrlDir s.ch[c].ctrl) moved ∧
      t.ch[c].bcr = s.ch[c].bcr ∧
      (next = 0xFFFFFF#24 →
        exec (.tagLast c len) s = .next t ∧ t.ch[c].addr = 0x00FFFFFF#32 ∧ Completes s t c ∧
        t.events = completionEvents s c ++ moved.reverse ++ s.events) ∧
      (next ≠ 0xFFFFFF#24 →
        exec (.tagLink c len next) s = .next t ∧ t.ch[c].addr = 0#8 ++ next ∧ StaysActive s t c ∧
        t.events = moved.reverse ++ s.events)

/-- R108: a unit of work under `sync = 3` is refused, and so is a tick whose winner has it; the row UNIT.RESERVED is
refused in every state. Writing the value, and reading it back, are defined. -/
def Obligations.ReservedSyncModeIsRefused : Prop :=
  (∀ (s : State) (c : ChannelIx) (dir : Direction), exec (.unitReserved c dir) s = .refused .syncReserved) ∧
  (∀ (s : State) (c : ChannelIx), winner s = some c → s.ch[c].ctrl.extractLsb' 9 2 = 3#2 →
    exec .tick s = .refused .syncReserved) ∧
  ∀ (s : State) (c : ChannelIx) (v : Word), v.extractLsb' 9 2 = 3#2 →
    ∃ t u, exec (.wr32ChCtrl c v) s = .next t ∧ exec (.rd32ChCtrl c) t = .next u ∧
      u.answer = some (.read .ok (.b32 v))

/-- R112: a tick that answers a next state sets at most one interrupt flag and raises at most one signal: two channels never
complete in the same tick. -/
def Obligations.OneTickCompletesAtMostOneChannel : Prop :=
  ∀ s t : State, exec .tick s = .next t →
    (∀ c c' : ChannelIx, t.iflag[c] ≠ s.iflag[c] → t.iflag[c'] ≠ s.iflag[c'] → c = c') ∧
    (∀ c c' : ChannelIx, ctrlBusy t.ch[c].ctrl ≠ ctrlBusy s.ch[c].ctrl →
      ctrlBusy t.ch[c'].ctrl ≠ ctrlBusy s.ch[c'].ctrl → c = c') ∧
    ∃ added : List Event, t.events = added ++ s.events ∧
      (added.filter (· = Event.intSignal)).length ≤ 1

/-- R115, R145: while a channel is eligible, no eligible channel that loses to it does any work, and a channel that is not
eligible stays as it is: a tick changes the three registers and the flag of its winner only; and a winner that has not
completed wins again. -/
def Obligations.LosersWaitAndWinnerKeepsWinning : Prop :=
  ∀ s t : State, exec .tick s = .next t →
    (∀ c : ChannelIx, winner s ≠ some c →
      t.ch[c] = s.ch[c] ∧ t.iflag[c] = s.iflag[c] ∧ t.devInput[c] = s.devInput[c]) ∧
    ∀ c : ChannelIx, winner s = some c → ctrlBusy t.ch[c].ctrl = true → winner t = some c

/-- R114, for burst and block: counted in ticks with nothing between, a burst transfer with `size != 0` and a block transfer
with any `size` complete in the `max(count, 1)`-th tick, `addr` has then advanced by `size * count` bytes, and after every
smaller number of ticks the channel is still Active and still the winner; a burst transfer with `size = 0` completes in the
first tick and moves nothing. (R114's clause on linked lists is left to ListUnitMovesOneNode.) -/
def Obligations.TransferCompletesInCountTicks : Prop :=
  ∀ (s : State) (c : ChannelIx) (size count : Nat),
    winner s = some c → size = bcrSize s.ch[c].bcr → count = bcrCount s.ch[c].bcr →
    ((ctrlSync s.ch[c].ctrl = .burst ∧ size ≠ 0) ∨ ctrlSync s.ch[c].ctrl = .block →
      (∃ t, runTicks (max count 1) s = .next t ∧ ctrlBusy t.ch[c].ctrl = false ∧ t.iflag[c] = true ∧
        t.ch[c].addr = s.ch[c].addr + BitVec.ofNat 32 (size * count) ∧
        bcrCount t.ch[c].bcr = 0 ∧ bcrSize t.ch[c].bcr = size ∧
        t.pending = (s.pending || (s.ie[c] && s.mie))) ∧
      ∀ k, k < max count 1 → ∃ u, runTicks k s = .next u ∧ winner u = some c ∧ ctrlBusy u.ch[c].ctrl = true ∧
        u.iflag = s.iflag ∧ u.pending = s.pending ∧
        u.ch[c].addr = s.ch[c].addr + BitVec.ofNat 32 (size * k) ∧ bcrCount u.ch[c].bcr = count - k) ∧
    (ctrlSync s.ch[c].ctrl = .burst ∧ size = 0 →
      ∃ t, runTicks 1 s = .next t ∧ ctrlBusy t.ch[c].ctrl = false ∧ t.iflag[c] = true ∧
        t.ch[c].addr = s.ch[c].addr ∧ t.ch[c].bcr = s.ch[c].bcr ∧ t.ram = s.ram ∧ t.cram = s.cram ∧
        t.pending = (s.pending || (s.ie[c] && s.mie)))

/-- R144: a linked list that loops, or whose terminator is never reached, wins every tick for ever. Let `node` be a set of tag
addresses that holds the winner's `addr` and is closed under the links, each tag in RAM or CRAM and no terminator, and let
no payload be stored over memory (the channel's direction is to device, or the nodes have no payload). Then after any number
of ticks the channel is still the winner, at a node of the set, and no other channel has moved. (A from-device payload may
overwrite the tags; one tick of it is ListUnitMovesOneNode's.) -/
def Obligations.LoopingListStarvesLowerChannels : Prop :=
  ∀ (s : State) (c : ChannelIx) (node : Word → Prop) (tag : Word → Word) (bank : Word → Nat → Bank) (k : Nat),
    winner s = some c → ctrlSync s.ch[c].ctrl = .list → node s.ch[c].addr →
    (∀ a, node a →
      (tag a).extractLsb' 0 24 ≠ 0xFFFFFF#24 ∧ node (0#8 ++ (tag a).extractLsb' 0 24) ∧
      (ctrlDir s.ch[c].ctrl = .toDevice ∨ (tag a).extractLsb' 24 8 = 0#8) ∧
      ∀ i, i < 4 → region s.cfg (transferAddress a i) 1 = (bank a i).region ∧
        s.byteAt (bank a i) (bankOffset s.cfg (bank a i) (transferAddress a i)) = (tag a).extractLsb' (8 * i) 8) →
    ∃ t, runTicks k s = .next t ∧ winner t = some c ∧ node t.ch[c].addr ∧
      t.ch[c].ctrl = s.ch[c].ctrl ∧ t.ch[c].bcr = s.ch[c].bcr ∧
      (∀ c' : ChannelIx, c' ≠ c → t.ch[c'] = s.ch[c']) ∧ t.iflag = s.iflag ∧ t.pending = s.pending

/-! ## The sink, reset (spec/43_interrupt_sink.md, spec/70_reset_and_hazards.md) -/

/-- R118: INTACK clears `isink.pending` and touches nothing else of the block, the channel flags among it. The history records
the fall of `irq_out` if it was high (R23; that it holds changes of the level is the model's choice, log entry 15), and no answer
stays (log entry 9). -/
def Obligations.IntackClearsOnlyTheSink : Prop :=
  ∀ s : State, exec .intack s = .next { s with
    pending := false, events := (if s.pending = true then [.irqOut false] else []) ++ s.events, answer := none }

/-- R136, R26: RESET sets every register, flag, enable and priority of every channel, `mie` and `isink.pending` to 0, draws
every byte of both memories anew (each byte is then the free byte of that reset, log entry 4), and emits no event: the history
gains only the fall of `irq_out`, if it was high (R23, in the model's form of log entry 15). The
power-on state is a state after one RESET: State.reset has the same values. That RESET keeps the draws taken (log entry 3), the
schedule (log entry 5) and the bytes fixed for the device ports (log entry 8), which are the model's own fields, is the model's
choice. -/
def Obligations.ResetZeroesRegistersAndRedrawsMemory : Prop :=
  (∀ s : State, ∃ t, exec .reset s = .next t ∧ s.memDraw < t.memDraw ∧
    t.events = (if s.pending = true then [.irqOut false] else []) ++ s.events ∧
    t.cfg = s.cfg ∧ t.schedule = s.schedule ∧ t.devInput = s.devInput ∧ t.draws = s.draws) ∧
  ∀ s t : State, (t = State.reset ∨ exec .reset s = .next t) →
    (∀ c : ChannelIx, t.ch[c] = ⟨0#32, 0#32, 0#32⟩ ∧ t.prio[c] = 0#3 ∧ t.en[c] = false ∧ t.ie[c] = false ∧
      t.iflag[c] = false) ∧
    t.mie = false ∧ t.pending = false ∧ ∀ (b : Bank) (o : Nat), t.byteAt b o = Config.freeByte t.memDraw b o

/-- R137: after reset the block is inert: for every number of ticks nothing changes but that nothing is answered, every DMA
register reads 0, `irq_out` is low. Of the state after reset and of the state any RESET leaves. -/
def Obligations.AfterResetTheBlockIsInert : Prop :=
  ∀ s t : State, (t = State.reset ∨ exec .reset s = .next t) →
    (∀ k, ∃ u, runTicks k t = .next u ∧ u = { t with answer := u.answer }) ∧
    (∀ i ∈ [Instr.rd32Dpcr, .rd32Dpcr2, .rd32Dicr, .rd32Dicr2],
      ∃ u, exec i t = .next u ∧ u.answer = some (.read .ok (.b32 0#32))) ∧
    (∀ c : ChannelIx, ∀ i ∈ [Instr.rd32ChAddr c, .rd32ChBcr c, .rd32ChCtrl c],
      ∃ u, exec i t = .next u ∧ u.answer = some (.read .ok (.b32 0#32))) ∧
    irqOut t = false

/-! ## Rules of the whole block -/

/-- The invariant holds right after reset. -/
def Obligations.ResetMeetsTheInvariant : Prop := State.reset.Inv

/-- Every step keeps the invariant: the configuration stays well formed, each memory stays in its canonical form and lists
only bytes of its own region, and the newest level of `irq_out` in the history is its level (R23, R119; that the history holds
changes of the level is the model's choice, log entry 15). -/
def Obligations.StepKeepsTheInvariant : Prop :=
  ∀ s t : State, s.Inv → step s = .next t → t.Inv

/-- No step changes the configuration (R23), and a step takes exactly one operation off the schedule if there is one. The
schedule is the model's own field (log entry 5). -/
def Obligations.StepTakesOneOperation : Prop :=
  ∀ s t : State, step s = .next t → t.cfg = s.cfg ∧ t.schedule = s.schedule.tail

/-- R123: nothing in the block is fatal. Every operation the environment can apply, with operands of its row, completes in
every state in which no Active channel has the reserved sync mode. -/
def Obligations.EveryOperationCompletes : Prop :=
  ∀ (s : State) (i : Instr), ofEnvironment i = true → WellFormed s.cfg i = true → s.noReservedActive →
    ∃ t, exec i s = .next t

/-- R122, R123, R126, R42: every bus access answers exactly one status; `UNMAPPED` exactly if no region holds the access,
`REJECT` only in the DMA window; an access that does not answer `OK` changes nothing but the answer and, for a read, the
draws taken; and no read, whatever it answers, changes anything else. -/
def Obligations.AccessStatusFollowsTheDecode : Prop :=
  (∀ (s : State) (w : Width) (a : Word), ∃ (st : Status) (d : BusData) (draws : Nat),
    exec (decodeRead s.cfg w a) s = .next { s with draws := draws, answer := some (.read st d) } ∧ d.width = w ∧
    (st = .unmapped ↔ region s.cfg a w.bytes = .unmapped) ∧
    (st = .reject → region s.cfg a w.bytes = .dma) ∧ (st = .ok → w = .w32 ∨ region s.cfg a w.bytes ≠ .dma)) ∧
  ∀ (s : State) (a : Word) (d : BusData), ∃ (st : Status) (t : State),
    exec (decodeWrite s.cfg a d) s = .next t ∧ t.answer = some (.write st) ∧
    (st = .unmapped ↔ region s.cfg a d.width.bytes = .unmapped) ∧
    (st = .reject → region s.cfg a d.width.bytes = .dma) ∧
    (st = .ok → d.width = .w32 ∨ region s.cfg a d.width.bytes ≠ .dma) ∧
    (st ≠ .ok → t = { s with answer := some (.write st) })

/-- R46 (with R47): every write that stores bytes into RAM or CRAM, by any master, emits `Invalidate`. If a step other than
a RESET changes what a byte of memory reads as, an event of that step names a range of bus addresses that contains the
byte's. -/
def Obligations.EveryMemoryChangeIsAnnounced : Prop :=
  ∀ (s t : State) (b : Bank) (o : Nat), step s = .next t → t.memDraw = s.memDraw → t.byteAt b o ≠ s.byteAt b o →
    ∃ (added : List Event) (a : Word) (n : Nat), t.events = added ++ s.events ∧ Event.invalidate a n ∈ added ∧
      region s.cfg a n = b.region ∧ bankOffset s.cfg b a ≤ o ∧ o < bankOffset s.cfg b a + n

/-- R25, R20: `if[c]` is set only by a completion of channel `c` and cleared only by a write of DICR or DICR2 with 1 in the
flag's bit or by reset. Of every operation, at every state. -/
def Obligations.FlagsChangeOnlyAsListed : Prop :=
  ∀ (s t : State) (i : Instr) (c : ChannelIx), exec i s = .next t →
    (s.iflag[c] = false → t.iflag[c] = true →
      winner s = some c ∧ ctrlBusy t.ch[c].ctrl = false ∧ (i = .tick ∨ ofEnvironment i = false)) ∧
    (s.iflag[c] = true → t.iflag[c] = false →
      i = .reset ∨ (∃ v : Word, i = .wr32Dicr v ∧ c.val < 8 ∧ v.getLsbD (24 + c.val) = true) ∨
      ∃ v : Word, i = .wr32Dicr2 v ∧ 8 ≤ c.val ∧ v.getLsbD (24 + (c.val - 8)) = true)

/-- R25, R18: channel `c` becomes Active only by a write of its control word with bit 24 set, and Idle only by a completion,
by a write of its control word with bit 24 clear, or by reset. Of every operation, at every state. -/
def Obligations.BusyChangesOnlyAsListed : Prop :=
  ∀ (s t : State) (i : Instr) (c : ChannelIx), exec i s = .next t →
    (ctrlBusy s.ch[c].ctrl = false → ctrlBusy t.ch[c].ctrl = true →
      ∃ v : Word, i = .wr32ChCtrl c v ∧ v.getLsbD 24 = true) ∧
    (ctrlBusy s.ch[c].ctrl = true → ctrlBusy t.ch[c].ctrl = false →
      i = .reset ∨ (∃ v : Word, i = .wr32ChCtrl c v ∧ v.getLsbD 24 = false) ∨
      (winner s = some c ∧ t.iflag[c] = true ∧ (i = .tick ∨ ofEnvironment i = false)))

/-- R120: the sink is not in the address space. No bus access changes `isink.pending` and none depends on it: with any
other value of it the access answers the same and leaves the same state but for it. Only TICK (through a completion),
INTACK and RESET change it. -/
def Obligations.SinkIsOutsideTheAddressSpace : Prop :=
  (∀ (s t : State) (i : Instr) (p : Bool), exec i s = .next t → i.format = .bus →
    t.pending = s.pending ∧ exec i { s with pending := p } = .next { t with pending := p }) ∧
  ∀ (s t : State) (i : Instr), exec i s = .next t → t.pending ≠ s.pending →
    i = .intack ∨ i = .reset ∨
      ((i = .tick ∨ ofEnvironment i = false) ∧
        ∃ c : ChannelIx, winner s = some c ∧ t.iflag[c] = true ∧ ctrlBusy t.ch[c].ctrl = false)

/-- R23, R119: the history records the level `irq_out`. The entries of the level that a step adds are the level after the step
if it differs from the level before it, and none if it does not: a rise (a completion's signal into a clear sink) and a fall
(INTACK, RESET of a set one) each have their one entry, and nothing else has. That the history holds changes, and not the
level after each operation, is the model's choice (log entry 15). -/
def Obligations.HistoryRecordsTheLevel : Prop :=
  ∀ s t : State, step s = .next t →
    ∃ added : List Event, t.events = added ++ s.events ∧
      added.filter Event.isLevel = if irqOut t = irqOut s then [] else [.irqOut (irqOut t)]

/-- R125 (DS: "a channel's completion only raises a CPU-visible interrupt condition if both its own enable bit and the
master enable bit are set"): a step that makes `irq_out` go high, or adds an `IntSignal` event, completes a channel whose
own enable and the master enable are both set in the state before it. -/
def Obligations.SignalNeedsBothEnables : Prop :=
  ∀ (s t : State), step s = .next t →
    (irqOut s = false ∧ irqOut t = true) ∨
      (∃ added : List Event, t.events = added ++ s.events ∧ Event.intSignal ∈ added) →
    ∃ c : ChannelIx, s.ie[c] = true ∧ s.mie = true ∧ ctrlBusy s.ch[c].ctrl = true ∧
      ctrlBusy t.ch[c].ctrl = false ∧ t.iflag[c] = true ∧ irqOut t = true

/-- R146: late enables lose the interrupt. Where no channel is eligible any more, writes of DICR and DICR2, whatever enables
they set, and any number of ticks after them raise nothing: flags already set are not signalled retroactively. -/
def Obligations.LateEnableRaisesNothing : Prop :=
  ∀ (s : State) (v v2 : Word) (k : Nat), winner s = none →
    ∃ t u w, exec (.wr32Dicr v) s = .next t ∧ exec (.wr32Dicr2 v2) t = .next u ∧ runTicks k u = .next w ∧
      w.pending = s.pending ∧ w.events = s.events

/-- R19: no operation but a write of DPCR or DPCR2 and RESET changes a priority or a channel enable; R20: no operation but
a write of DICR or DICR2 and RESET changes an interrupt enable or the master enable. -/
def Obligations.EnablesAreWrittenOnlyByTheirRegisters : Prop :=
  ∀ (s t : State) (i : Instr), exec i s = .next t →
    ((t.prio ≠ s.prio ∨ t.en ≠ s.en) → i = .reset ∨ ∃ v, i = .wr32Dpcr v ∨ i = .wr32Dpcr2 v) ∧
    ((t.ie ≠ s.ie ∨ t.mie ≠ s.mie) → i = .reset ∨ ∃ v, i = .wr32Dicr v ∨ i = .wr32Dicr2 v)

/-- R48: an inspector's read returns the element's current value. What a bus read answers and what an inspector sees agree: for
the three registers of a channel, for the eight channels' elements in each of DPCR, DPCR2, DICR and DICR2 and the master enable
in DICR, and for a byte of memory. The sink has no bus read (R120): there the inspector sees the level of `irq_out`. -/
def Obligations.InspectorAgreesWithBusReads : Prop :=
  ∀ (s : State) (c : ChannelIx) (b : Bank) (a : Word),
    (∃ t v, exec (.rd32ChAddr c) s = .next t ∧ t.answer = some (.read .ok (.b32 v)) ∧
      v.toNat = inspect s (.addr c)) ∧
    (∃ t v, exec (.rd32ChBcr c) s = .next t ∧ t.answer = some (.read .ok (.b32 v)) ∧
      v.toNat = inspect s (.bcr c)) ∧
    (∃ t v, exec (.rd32ChCtrl c) s = .next t ∧ t.answer = some (.read .ok (.b32 v)) ∧
      v.toNat = inspect s (.ctrl c)) ∧
    (∀ x ∈ [(Instr.rd32Dpcr, (0 : Fin 2)), (.rd32Dpcr2, 1)],
      ∃ t v, exec x.1 s = .next t ∧ t.answer = some (.read .ok (.b32 v)) ∧
        ∀ i : Fin 8, (v.extractLsb' (4 * i.val) 3).toNat = inspect s (.prio (groupChannel x.2 i)) ∧
          (v.extractLsb' (4 * i.val + 3) 1).toNat = inspect s (.en (groupChannel x.2 i))) ∧
    (∀ x ∈ [(Instr.rd32Dicr, (0 : Fin 2)), (.rd32Dicr2, 1)],
      ∃ t v, exec x.1 s = .next t ∧ t.answer = some (.read .ok (.b32 v)) ∧
        (∀ i : Fin 8, (v.extractLsb' (16 + i.val) 1).toNat = inspect s (.ie (groupChannel x.2 i)) ∧
          (v.extractLsb' (24 + i.val) 1).toNat = inspect s (.iflag (groupChannel x.2 i))) ∧
        (x.2 = 0 → (v.extractLsb' 15 1).toNat = inspect s .mie)) ∧
    (irqOut s).toNat = inspect s .pending ∧
    (region s.cfg a 1 = b.region → ∃ t v, exec (readRow b.region .w8 a) s = .next t ∧
      t.answer = some (.read .ok (.b8 v)) ∧ v.toNat = inspect s (.memory b (bankOffset s.cfg b a)))

/-! ## Encoding and stepping (spec/30_encoding.md) -/

/-- Under a well-formed configuration, decoding the record of any well-formed operation gives the operation back. The fields
and their codes are R50 to R63's; their packing into bytes is the model's choice (log entry 6). -/
def Obligations.DecodeOfEncodeIsTheOperation : Prop :=
  ∀ (cfg : Config) (i : Instr), cfg.wf = true → WellFormed cfg i = true → decode cfg (encode cfg i) = .ok i

/-- Under a well-formed configuration, what the decoder accepts is a well-formed operation, and a BUS, PORT or TAG record it
accepts is the record of the operation it gives (a REG record's unknown and busy bits select nothing, R63, so several name
one row). That an operation has one record rests on the byte layout and the rejected spare bits, which are the model's choice
(log entry 6); the fields are R50 to R63's. -/
def Obligations.EncodeOfDecodeIsTheRecord : Prop :=
  ∀ (cfg : Config) (record : List Byte) (i : Instr), cfg.wf = true → decode cfg record = .ok i →
    WellFormed cfg i = true ∧ (i.format ≠ .reg → encode cfg i = record)

/-- R65: the 58 BUS rows of the opcode table, tried in order, are the decode: for every kind, width, address and data under
the vector-default configuration the first row that matches is the row the router performs, and there is one. -/
def Obligations.OpcodeTableIsTheRoutersDecode : Prop :=
  (∀ (w : Width) (a : Word),
    firstRow .read w a = some (decodeRead Config.vectorDefault w a).mnemonic) ∧
  ∀ (a : Word) (d : BusData),
    firstRow .write d.width a = some (decodeWrite Config.vectorDefault a d).mnemonic

/-- Written-out records decode to the operations they stand for. Eight of the BUS records written out in
spec/95_test_vectors.md, in this order: two writes of its first scenario; a 32-bit write, an 8-bit read and a 16-bit write of
V1; the 64-bit write of V2; the read of a reserved slot and the rejected byte read of V15. Then the three PORT operations, and
for each REG and TAG row a control word or tag word that R63 or R62 gives it. The bytes of a record are the model's packing
(log entry 6). -/
def Obligations.WrittenOutRecordsDecode : Prop :=
  ∀ x ∈ [
    ([0x00#8, 0x11#8, 0x80#8, 0x1F#8, 0x05#8, 0x00#8, 0x09#8, 0x00#8, 0x00#8], Instr.wr32Dpcr 0x00000900#32),
    ([0x28#8, 0x10#8, 0x80#8, 0x1F#8, 0x05#8, 0x00#8, 0x00#8, 0x00#8, 0x01#8], .wr32ChCtrl 2 0x01000000#32),
    ([0x00#8, 0x01#8, 0x00#8, 0x00#8, 0x05#8, 0x11#8, 0x22#8, 0x33#8, 0x44#8], .wr32Ram 0x00000100#32 0x44332211#32),
    ([0x00#8, 0x01#8, 0x00#8, 0x00#8, 0x00#8], .rd8Ram 0x00000100#32),
    ([0x01#8, 0x01#8, 0x00#8, 0x00#8, 0x03#8, 0xEF#8, 0xBE#8], .wr16Ram 0x00000101#32 0xBEEF#16),
    ([0x00#8, 0x00#8, 0x00#8, 0x1C#8, 0x07#8, 0x01#8, 0x02#8, 0x03#8, 0x04#8, 0x05#8, 0x06#8, 0x07#8, 0x08#8],
      .wr64Cram 0x1C000000#32 0x0807060504030201#64),
    ([0x2C#8, 0x10#8, 0x80#8, 0x1F#8, 0x04#8], .rd32DmaReservedSlot 2),
    ([0x04#8, 0x11#8, 0x80#8, 0x1F#8, 0x00#8], .rd8DmaBadaccess 0x1F801104#32),
    ([0x00#8, 0x00#8, 0x00#8, 0x00#8, 0x08#8], .tick),
    ([0x01#8, 0x00#8, 0x00#8, 0x00#8, 0x08#8], .reset),
    ([0x02#8, 0x00#8, 0x00#8, 0x00#8, 0x08#8], .intack),
    ([0x00#8, 0x00#8, 0x00#8, 0x01#8, 0x10#8, 0x02#8], .unitBurst 2 .fromDevice),
    ([0x01#8, 0x02#8, 0x00#8, 0x01#8, 0x10#8, 0x0F#8], .unitBlock 15 .toDevice),
    ([0x01#8, 0x04#8, 0x00#8, 0x01#8, 0x10#8, 0x00#8], .unitList 0 .toDevice),
    ([0x00#8, 0x06#8, 0x00#8, 0x01#8, 0x10#8, 0x05#8], .unitReserved 5 .fromDevice),
    ([0xFF#8, 0xFF#8, 0xFF#8, 0x01#8, 0x18#8, 0x02#8], .tagLast 2 0x01#8),
    ([0x00#8, 0x20#8, 0x00#8, 0x02#8, 0x18#8, 0x02#8], .tagLink 2 0x02#8 0x002000#24)],
    decode Config.vectorDefault x.1 = .ok x.2

/-- R11, R43: a step runs the decoded operation. When the next record of the schedule decodes to an operation, the step is
that operation's meaning at the state with the record taken off the schedule. Two clauses are the model's choice: a record that
decodes to none is refused by name (log entry 6), and with an empty schedule the step changes nothing (log entry 5). -/
def Obligations.StepRunsTheDecodedOperation : Prop :=
  ∀ (s : State) (record : List Byte) (rest : List Input),
    (∀ i : Instr, decode s.cfg record = .ok i →
      step { s with schedule := .record record :: rest } = exec i { s with schedule := rest }) ∧
    (∀ e : DecodeError, decode s.cfg record = .error e →
      step { s with schedule := .record record :: rest } = .refused (.undecodable e)) ∧
    step { s with schedule := [] } = .next { s with schedule := [] }
end

