-- ==== Sys2Proof/Laws/Bytes.lean ====
section
/-! SUPPORT. Byte order: `leBytes` and `leValue` are inverse, and each byte of a value is where R37 puts it; the data of an
access and its bytes. -/

namespace Sys2Proof

@[simp] theorem leBytes_length (n v : Nat) : (leBytes n v).length = n := by
  induction n generalizing v with
  | zero => rfl
  | succ n ih => simp [leBytes, ih]

/-- Byte `i` of a value: `v[8*i+7 : 8*i]` (R37 `MemWrite`). -/
theorem leBytes_getElem? (n v i : Nat) :
    (leBytes n v)[i]? = if i < n then some (BitVec.ofNat 8 (v / 2 ^ (8 * i))) else none := by
  induction n generalizing v i with
  | zero => simp [leBytes]
  | succ n ih =>
    cases i with
    | zero => simp [leBytes]
    | succ i =>
      have hp : 2 ^ (8 * (i + 1)) = 256 * 2 ^ (8 * i) := by
        rw [show 8 * (i + 1) = 8 + 8 * i by ring, Nat.pow_add]
      simp [leBytes, ih, hp, Nat.div_div_eq_div_mul]

/-- Byte `i` of the number that bytes stand for (R37 `MemRead`). -/
theorem leValue_byte (bs : List Byte) (i : Nat) :
    leValue bs / 2 ^ (8 * i) % 256 = ((bs[i]?).getD 0#8).toNat := by
  induction bs generalizing i with
  | nil => simp [leValue]
  | cons b bs ih =>
    have hb := b.isLt
    cases i with
    | zero => simp [leValue]; omega
    | succ i =>
      have hp : 2 ^ (8 * (i + 1)) = 256 * 2 ^ (8 * i) := by
        rw [show 8 * (i + 1) = 8 + 8 * i by ring, Nat.pow_add]
      rw [leValue, hp, ← Nat.div_div_eq_div_mul, show (b.toNat + 256 * leValue bs) / 256 = leValue bs by omega, ih]
      simp

theorem leValue_lt (bs : List Byte) : leValue bs < 2 ^ (8 * bs.length) := by
  induction bs with
  | nil => simp [leValue]
  | cons b bs ih =>
    have hb := b.isLt
    have hp : 2 ^ (8 * (b :: bs).length) = 256 * 2 ^ (8 * bs.length) := by
      rw [List.length_cons, show 8 * (bs.length + 1) = 8 + 8 * bs.length by ring, Nat.pow_add]
    rw [leValue, hp]
    omega

theorem leValue_leBytes (n v : Nat) : leValue (leBytes n v) = v % 2 ^ (8 * n) := by
  induction n generalizing v with
  | zero => simp [leBytes, leValue, Nat.mod_one]
  | succ n ih =>
    have hp : 2 ^ (8 * (n + 1)) = 256 * 2 ^ (8 * n) := by
      rw [show 8 * (n + 1) = 8 + 8 * n by ring, Nat.pow_add]
    rw [leBytes, leValue, ih, hp, Nat.mod_mul]
    simp

theorem leBytes_leValue (bs : List Byte) : leBytes bs.length (leValue bs) = bs := by
  induction bs with
  | nil => rfl
  | cons b bs ih =>
    have hb := b.isLt
    rw [List.length_cons, leBytes, leValue, show (b.toNat + 256 * leValue bs) / 256 = leValue bs by omega, ih]
    congr 1
    apply BitVec.eq_of_toNat_eq
    simp only [BitVec.toNat_ofNat]
    omega

/-! ## The data of an access -/

@[simp] theorem BusData.ofNat_width (w : Width) (v : Nat) : (BusData.ofNat w v).width = w := by cases w <;> rfl

@[simp] theorem BusData.bytes_length (d : BusData) : d.bytes.length = d.width.bytes := by simp [BusData.bytes]

theorem BusData.toNat_lt (d : BusData) : d.toNat < 2 ^ (8 * d.width.bytes) := by
  cases d <;> exact BitVec.isLt _

theorem BusData.toNat_ofNat (w : Width) (v : Nat) : (BusData.ofNat w v).toNat = v % 2 ^ (8 * w.bytes) := by
  cases w <;> simp [BusData.ofNat, BusData.toNat, Width.bytes]

/-- The data is its width and its number. -/
theorem BusData.ofNat_toNat (d : BusData) : BusData.ofNat d.width d.toNat = d := by
  cases d <;> simp [BusData.ofNat, BusData.toNat, BusData.width]

/-- The data of a record's or a memory's bytes has those bytes. -/
theorem BusData.bytes_ofNat_leValue (w : Width) (bs : List Byte) (h : bs.length = w.bytes) :
    (BusData.ofNat w (leValue bs)).bytes = bs := by
  rw [BusData.bytes, BusData.ofNat_width, BusData.toNat_ofNat, ← h, Nat.mod_eq_of_lt (leValue_lt bs), leBytes_leValue]

/-- The bytes of the data give the data back. -/
theorem BusData.ofNat_leValue_bytes (d : BusData) : BusData.ofNat d.width (leValue d.bytes) = d := by
  rw [BusData.bytes, leValue_leBytes, Nat.mod_eq_of_lt d.toNat_lt, BusData.ofNat_toNat]

theorem Width.bytes_pos (w : Width) : 0 < w.bytes := by cases w <;> simp [Width.bytes]

theorem Width.bytes_le (w : Width) : w.bytes ≤ 8 := by cases w <;> simp [Width.bytes]

@[simp] theorem widthOfCode_code (w : Width) : widthOfCode w.code = w := by cases w <;> rfl

end Sys2Proof
end

