-- ==== Sys2Proof/Laws/Registers.lean ====
section
/-! SUPPORT. The packed views and their writes (R55, R60, R61): each bit of a view, each element after a write. -/

namespace Sys2Proof.Machine

/-- Where the channel of a nibble or interrupt bit stands: in its group, at that place, and in no other group (R55). -/
theorem groupChannel_group (g : Fin 2) (i : Fin 8) :
    inGroup g (groupChannel g i) = true ∧ groupIndex (groupChannel g i) = i.val ∧
      ∀ g' : Fin 2, g' ≠ g → inGroup g' (groupChannel g i) = false := by
  revert g i
  decide

/-- Bit `k` of DPCR or DPCR2 (R60). -/
theorem packPriority_getLsbD (g : Fin 2) (prio : PerChannel (BitVec 3)) (en : PerChannel Bool) (k : Nat) (hk : k < 32) :
    (packPriority g prio en).getLsbD k =
      if k % 4 = 3 then en[groupChannel g ⟨k / 4, by omega⟩]
      else (prio[groupChannel g ⟨k / 4, by omega⟩]).getLsbD (k % 4) := by
  rw [packPriority, BitVec.getLsbD_ofFnLE]
  simp [hk]

/-- Bit `k` of DICR or DICR2 (R61). -/
theorem packInterrupt_getLsbD (g : Fin 2) (ie iflag : PerChannel Bool) (mie : Bool) (k : Nat) (hk : k < 32) :
    (packInterrupt g ie iflag mie).getLsbD k =
      if 24 ≤ k then iflag[groupChannel g ⟨k % 8, by omega⟩]
      else if 16 ≤ k then ie[groupChannel g ⟨k % 8, by omega⟩]
      else if k = 15 then decide (g = 0) && mie
      else false := by
  rw [packInterrupt, BitVec.getLsbD_ofFnLE]
  simp [hk]

/-- A priority after a write of its group's register (R88, R90). -/
theorem writePriority_prio (g : Fin 2) (v : Word) (s : State) (i : Fin 8) :
    (writePriority g v s).prio[groupChannel g i] = v.extractLsb' (4 * i.val) 3 := by
  have h := groupChannel_group g i
  simp [writePriority, unpackPrio, h.1, h.2.1]

/-- An enable after a write of its group's register (R88, R90). -/
theorem writePriority_en (g : Fin 2) (v : Word) (s : State) (i : Fin 8) :
    (writePriority g v s).en[groupChannel g i] = v.getLsbD (4 * i.val + 3) := by
  have h := groupChannel_group g i
  simp [writePriority, unpackEn, h.1, h.2.1]

/-- The other group keeps its priorities and enables (R88, R90). -/
theorem writePriority_other {g g' : Fin 2} (hg : g ≠ g') (v : Word) (s : State) (i : Fin 8) :
    (writePriority g v s).prio[groupChannel g' i] = s.prio[groupChannel g' i] ∧
      (writePriority g v s).en[groupChannel g' i] = s.en[groupChannel g' i] := by
  have h := (groupChannel_group g' i).2.2 g hg
  simp [writePriority, h]

/-- An interrupt enable after a write of its group's register (R92, R94). -/
theorem writeInterrupt_ie (g : Fin 2) (v : Word) (s : State) (i : Fin 8) :
    (writeInterrupt g v s).ie[groupChannel g i] = v.getLsbD (16 + i.val) := by
  have h := groupChannel_group g i
  simp [writeInterrupt, unpackIe, h.1, h.2.1]

/-- A flag after a write of its group's register: cleared by a 1, kept by a 0 (R92, R94). -/
theorem writeInterrupt_iflag (g : Fin 2) (v : Word) (s : State) (i : Fin 8) :
    (writeInterrupt g v s).iflag[groupChannel g i] = (s.iflag[groupChannel g i] && !v.getLsbD (24 + i.val)) := by
  have h := groupChannel_group g i
  simp [writeInterrupt, acknowledged, unpackAck, h.1, h.2.1]
  cases v.getLsbD (24 + i) <;> simp

/-- The other group keeps its interrupt enables and flags (R92, R94). -/
theorem writeInterrupt_other {g g' : Fin 2} (hg : g ≠ g') (v : Word) (s : State) (i : Fin 8) :
    (writeInterrupt g v s).ie[groupChannel g' i] = s.ie[groupChannel g' i] ∧
      (writeInterrupt g v s).iflag[groupChannel g' i] = s.iflag[groupChannel g' i] := by
  have h := (groupChannel_group g' i).2.2 g hg
  simp [writeInterrupt, acknowledged, h]

/-- A write of group 1 keeps the master enable; one of group 0 assigns it (R92, R94). -/
theorem writeInterrupt_mie (g : Fin 2) (v : Word) (s : State) :
    (writeInterrupt g v s).mie = if g = 0 then v.getLsbD 15 else s.mie := rfl

/-! ## writePriority, writeInterrupt and resetState, field by field -/

@[simp] theorem writePriority_cfg (g : Fin 2) (v : Word) (s : State) : (writePriority g v s).cfg = s.cfg := by
  simp only [writePriority]
@[simp] theorem writePriority_ch (g : Fin 2) (v : Word) (s : State) : (writePriority g v s).ch = s.ch := by
  simp only [writePriority]
@[simp] theorem writePriority_ie (g : Fin 2) (v : Word) (s : State) : (writePriority g v s).ie = s.ie := by
  simp only [writePriority]
@[simp] theorem writePriority_iflag (g : Fin 2) (v : Word) (s : State) : (writePriority g v s).iflag = s.iflag := by
  simp only [writePriority]
@[simp] theorem writePriority_mie (g : Fin 2) (v : Word) (s : State) : (writePriority g v s).mie = s.mie := by
  simp only [writePriority]
@[simp] theorem writePriority_pending (g : Fin 2) (v : Word) (s : State) : (writePriority g v s).pending = s.pending := by
  simp only [writePriority]
@[simp] theorem writePriority_ram (g : Fin 2) (v : Word) (s : State) : (writePriority g v s).ram = s.ram := by
  simp only [writePriority]
@[simp] theorem writePriority_cram (g : Fin 2) (v : Word) (s : State) : (writePriority g v s).cram = s.cram := by
  simp only [writePriority]
@[simp] theorem writePriority_memDraw (g : Fin 2) (v : Word) (s : State) : (writePriority g v s).memDraw = s.memDraw := by
  simp only [writePriority]
@[simp] theorem writePriority_draws (g : Fin 2) (v : Word) (s : State) : (writePriority g v s).draws = s.draws := by
  simp only [writePriority]
@[simp] theorem writePriority_schedule (g : Fin 2) (v : Word) (s : State) : (writePriority g v s).schedule = s.schedule := by
  simp only [writePriority]
@[simp] theorem writePriority_devInput (g : Fin 2) (v : Word) (s : State) : (writePriority g v s).devInput = s.devInput := by
  simp only [writePriority]
@[simp] theorem writePriority_answer (g : Fin 2) (v : Word) (s : State) : (writePriority g v s).answer = s.answer := by
  simp only [writePriority]
@[simp] theorem writePriority_events (g : Fin 2) (v : Word) (s : State) : (writePriority g v s).events = s.events := by
  simp only [writePriority]

@[simp] theorem writeInterrupt_cfg (g : Fin 2) (v : Word) (s : State) : (writeInterrupt g v s).cfg = s.cfg := by
  simp only [writeInterrupt]
@[simp] theorem writeInterrupt_ch (g : Fin 2) (v : Word) (s : State) : (writeInterrupt g v s).ch = s.ch := by
  simp only [writeInterrupt]
@[simp] theorem writeInterrupt_prio (g : Fin 2) (v : Word) (s : State) : (writeInterrupt g v s).prio = s.prio := by
  simp only [writeInterrupt]
@[simp] theorem writeInterrupt_en (g : Fin 2) (v : Word) (s : State) : (writeInterrupt g v s).en = s.en := by
  simp only [writeInterrupt]
@[simp] theorem writeInterrupt_pending (g : Fin 2) (v : Word) (s : State) : (writeInterrupt g v s).pending = s.pending := by
  simp only [writeInterrupt]
@[simp] theorem writeInterrupt_ram (g : Fin 2) (v : Word) (s : State) : (writeInterrupt g v s).ram = s.ram := by
  simp only [writeInterrupt]
@[simp] theorem writeInterrupt_cram (g : Fin 2) (v : Word) (s : State) : (writeInterrupt g v s).cram = s.cram := by
  simp only [writeInterrupt]
@[simp] theorem writeInterrupt_memDraw (g : Fin 2) (v : Word) (s : State) : (writeInterrupt g v s).memDraw = s.memDraw := by
  simp only [writeInterrupt]
@[simp] theorem writeInterrupt_draws (g : Fin 2) (v : Word) (s : State) : (writeInterrupt g v s).draws = s.draws := by
  simp only [writeInterrupt]
@[simp] theorem writeInterrupt_schedule (g : Fin 2) (v : Word) (s : State) : (writeInterrupt g v s).schedule = s.schedule := by
  simp only [writeInterrupt]
@[simp] theorem writeInterrupt_devInput (g : Fin 2) (v : Word) (s : State) : (writeInterrupt g v s).devInput = s.devInput := by
  simp only [writeInterrupt]
@[simp] theorem writeInterrupt_answer (g : Fin 2) (v : Word) (s : State) : (writeInterrupt g v s).answer = s.answer := by
  simp only [writeInterrupt]
@[simp] theorem writeInterrupt_events (g : Fin 2) (v : Word) (s : State) : (writeInterrupt g v s).events = s.events := by
  simp only [writeInterrupt]

@[simp] theorem resetState_cfg (s : State) : (resetState s).cfg = s.cfg := rfl
@[simp] theorem resetState_ch (s : State) : (resetState s).ch = State.reset.ch := rfl
@[simp] theorem resetState_prio (s : State) : (resetState s).prio = State.reset.prio := rfl
@[simp] theorem resetState_en (s : State) : (resetState s).en = State.reset.en := rfl
@[simp] theorem resetState_ie (s : State) : (resetState s).ie = State.reset.ie := rfl
@[simp] theorem resetState_iflag (s : State) : (resetState s).iflag = State.reset.iflag := rfl
@[simp] theorem resetState_mie (s : State) : (resetState s).mie = State.reset.mie := rfl
@[simp] theorem resetState_pending (s : State) : (resetState s).pending = State.reset.pending := rfl
@[simp] theorem resetState_ram (s : State) : (resetState s).ram = State.reset.ram := rfl
@[simp] theorem resetState_cram (s : State) : (resetState s).cram = State.reset.cram := rfl
@[simp] theorem resetState_memDraw (s : State) : (resetState s).memDraw = s.memDraw + 1 := rfl
@[simp] theorem resetState_draws (s : State) : (resetState s).draws = s.draws := rfl
@[simp] theorem resetState_schedule (s : State) : (resetState s).schedule = s.schedule := rfl
@[simp] theorem resetState_devInput (s : State) : (resetState s).devInput = s.devInput := rfl
@[simp] theorem resetState_answer (s : State) : (resetState s).answer = s.answer := rfl
@[simp] theorem resetState_events (s : State) : (resetState s).events =
    irqRecord s.pending State.reset.pending ++ s.events := rfl

/-- A byte of memory after a RESET is the byte drawn for it at that reset (R136). -/
theorem resetState_byteAt (s : State) (b : Bank) (o : Nat) :
    (resetState s).byteAt b o = Config.freeByte (s.memDraw + 1) b o := by
  cases b <;> rfl

end Sys2Proof.Machine
end

