-- ==== Sys2Proof/Laws/State.lean ====
section
/-! SUPPORT. One lemma per field per update of the state, true by rfl, so that no later proof unfolds a record update; and
what each update leaves of a memory's bytes. -/

namespace Sys2Proof.Machine

/-! ## One element of a per-channel array -/

theorem PerChannel.get_set_self {α : Type} (v : PerChannel α) (c : ChannelIx) (x : α) : (v.set c x)[c] = x :=
  Vector.getElem_set_self c.isLt

theorem PerChannel.get_set_other {α : Type} (v : PerChannel α) {c c' : ChannelIx} (x : α) (h : c' ≠ c) :
    (v.set c x)[c'] = v[c'] :=
  Vector.getElem_set_ne c.isLt c'.isLt (fun e => h (Fin.ext e.symm))

/-! ## State.answerWith -/

@[simp] theorem State.answerWith_cfg (s : State) (ans : Option Answer) : (s.answerWith ans).cfg = s.cfg := rfl
@[simp] theorem State.answerWith_ch (s : State) (ans : Option Answer) : (s.answerWith ans).ch = s.ch := rfl
@[simp] theorem State.answerWith_prio (s : State) (ans : Option Answer) : (s.answerWith ans).prio = s.prio := rfl
@[simp] theorem State.answerWith_en (s : State) (ans : Option Answer) : (s.answerWith ans).en = s.en := rfl
@[simp] theorem State.answerWith_ie (s : State) (ans : Option Answer) : (s.answerWith ans).ie = s.ie := rfl
@[simp] theorem State.answerWith_iflag (s : State) (ans : Option Answer) : (s.answerWith ans).iflag = s.iflag := rfl
@[simp] theorem State.answerWith_mie (s : State) (ans : Option Answer) : (s.answerWith ans).mie = s.mie := rfl
@[simp] theorem State.answerWith_pending (s : State) (ans : Option Answer) : (s.answerWith ans).pending = s.pending := rfl
@[simp] theorem State.answerWith_ram (s : State) (ans : Option Answer) : (s.answerWith ans).ram = s.ram := rfl
@[simp] theorem State.answerWith_cram (s : State) (ans : Option Answer) : (s.answerWith ans).cram = s.cram := rfl
@[simp] theorem State.answerWith_memDraw (s : State) (ans : Option Answer) : (s.answerWith ans).memDraw = s.memDraw := rfl
@[simp] theorem State.answerWith_draws (s : State) (ans : Option Answer) : (s.answerWith ans).draws = s.draws := rfl
@[simp] theorem State.answerWith_schedule (s : State) (ans : Option Answer) : (s.answerWith ans).schedule = s.schedule := rfl
@[simp] theorem State.answerWith_devInput (s : State) (ans : Option Answer) : (s.answerWith ans).devInput = s.devInput := rfl
@[simp] theorem State.answerWith_answer (s : State) (ans : Option Answer) : (s.answerWith ans).answer = ans := rfl
@[simp] theorem State.answerWith_events (s : State) (ans : Option Answer) : (s.answerWith ans).events = s.events := rfl
@[simp] theorem State.answerWith_bank (s : State) (ans : Option Answer) (b : Bank) : (s.answerWith ans).bank b = s.bank b := by cases b <;> rfl
@[simp] theorem State.answerWith_byteAt (s : State) (ans : Option Answer) (b : Bank) (o : Nat) : (s.answerWith ans).byteAt b o = s.byteAt b o := by
  cases b <;> rfl

/-! ## State.emit -/

@[simp] theorem State.emit_cfg (s : State) (e : Event) : (s.emit e).cfg = s.cfg := rfl
@[simp] theorem State.emit_ch (s : State) (e : Event) : (s.emit e).ch = s.ch := rfl
@[simp] theorem State.emit_prio (s : State) (e : Event) : (s.emit e).prio = s.prio := rfl
@[simp] theorem State.emit_en (s : State) (e : Event) : (s.emit e).en = s.en := rfl
@[simp] theorem State.emit_ie (s : State) (e : Event) : (s.emit e).ie = s.ie := rfl
@[simp] theorem State.emit_iflag (s : State) (e : Event) : (s.emit e).iflag = s.iflag := rfl
@[simp] theorem State.emit_mie (s : State) (e : Event) : (s.emit e).mie = s.mie := rfl
@[simp] theorem State.emit_pending (s : State) (e : Event) : (s.emit e).pending = s.pending := rfl
@[simp] theorem State.emit_ram (s : State) (e : Event) : (s.emit e).ram = s.ram := rfl
@[simp] theorem State.emit_cram (s : State) (e : Event) : (s.emit e).cram = s.cram := rfl
@[simp] theorem State.emit_memDraw (s : State) (e : Event) : (s.emit e).memDraw = s.memDraw := rfl
@[simp] theorem State.emit_draws (s : State) (e : Event) : (s.emit e).draws = s.draws := rfl
@[simp] theorem State.emit_schedule (s : State) (e : Event) : (s.emit e).schedule = s.schedule := rfl
@[simp] theorem State.emit_devInput (s : State) (e : Event) : (s.emit e).devInput = s.devInput := rfl
@[simp] theorem State.emit_answer (s : State) (e : Event) : (s.emit e).answer = s.answer := rfl
@[simp] theorem State.emit_events (s : State) (e : Event) : (s.emit e).events = e :: s.events := rfl
@[simp] theorem State.emit_bank (s : State) (e : Event) (b : Bank) : (s.emit e).bank b = s.bank b := by cases b <;> rfl
@[simp] theorem State.emit_byteAt (s : State) (e : Event) (b : Bank) (o : Nat) : (s.emit e).byteAt b o = s.byteAt b o := by
  cases b <;> rfl

/-! ## State.drawn -/

@[simp] theorem State.drawn_cfg (s : State) : (s.drawn).cfg = s.cfg := rfl
@[simp] theorem State.drawn_ch (s : State) : (s.drawn).ch = s.ch := rfl
@[simp] theorem State.drawn_prio (s : State) : (s.drawn).prio = s.prio := rfl
@[simp] theorem State.drawn_en (s : State) : (s.drawn).en = s.en := rfl
@[simp] theorem State.drawn_ie (s : State) : (s.drawn).ie = s.ie := rfl
@[simp] theorem State.drawn_iflag (s : State) : (s.drawn).iflag = s.iflag := rfl
@[simp] theorem State.drawn_mie (s : State) : (s.drawn).mie = s.mie := rfl
@[simp] theorem State.drawn_pending (s : State) : (s.drawn).pending = s.pending := rfl
@[simp] theorem State.drawn_ram (s : State) : (s.drawn).ram = s.ram := rfl
@[simp] theorem State.drawn_cram (s : State) : (s.drawn).cram = s.cram := rfl
@[simp] theorem State.drawn_memDraw (s : State) : (s.drawn).memDraw = s.memDraw := rfl
@[simp] theorem State.drawn_draws (s : State) : (s.drawn).draws = s.draws + 1 := rfl
@[simp] theorem State.drawn_schedule (s : State) : (s.drawn).schedule = s.schedule := rfl
@[simp] theorem State.drawn_devInput (s : State) : (s.drawn).devInput = s.devInput := rfl
@[simp] theorem State.drawn_answer (s : State) : (s.drawn).answer = s.answer := rfl
@[simp] theorem State.drawn_events (s : State) : (s.drawn).events = s.events := rfl
@[simp] theorem State.drawn_bank (s : State) (b : Bank) : (s.drawn).bank b = s.bank b := by cases b <;> rfl
@[simp] theorem State.drawn_byteAt (s : State) (b : Bank) (o : Nat) : (s.drawn).byteAt b o = s.byteAt b o := by
  cases b <;> rfl

/-! ## State.setAddr -/

@[simp] theorem State.setAddr_cfg (s : State) (c : ChannelIx) (v : Word) : (s.setAddr c v).cfg = s.cfg := rfl
@[simp] theorem State.setAddr_ch (s : State) (c : ChannelIx) (v : Word) : (s.setAddr c v).ch = s.ch.set c { s.ch[c] with addr := v } := rfl
@[simp] theorem State.setAddr_prio (s : State) (c : ChannelIx) (v : Word) : (s.setAddr c v).prio = s.prio := rfl
@[simp] theorem State.setAddr_en (s : State) (c : ChannelIx) (v : Word) : (s.setAddr c v).en = s.en := rfl
@[simp] theorem State.setAddr_ie (s : State) (c : ChannelIx) (v : Word) : (s.setAddr c v).ie = s.ie := rfl
@[simp] theorem State.setAddr_iflag (s : State) (c : ChannelIx) (v : Word) : (s.setAddr c v).iflag = s.iflag := rfl
@[simp] theorem State.setAddr_mie (s : State) (c : ChannelIx) (v : Word) : (s.setAddr c v).mie = s.mie := rfl
@[simp] theorem State.setAddr_pending (s : State) (c : ChannelIx) (v : Word) : (s.setAddr c v).pending = s.pending := rfl
@[simp] theorem State.setAddr_ram (s : State) (c : ChannelIx) (v : Word) : (s.setAddr c v).ram = s.ram := rfl
@[simp] theorem State.setAddr_cram (s : State) (c : ChannelIx) (v : Word) : (s.setAddr c v).cram = s.cram := rfl
@[simp] theorem State.setAddr_memDraw (s : State) (c : ChannelIx) (v : Word) : (s.setAddr c v).memDraw = s.memDraw := rfl
@[simp] theorem State.setAddr_draws (s : State) (c : ChannelIx) (v : Word) : (s.setAddr c v).draws = s.draws := rfl
@[simp] theorem State.setAddr_schedule (s : State) (c : ChannelIx) (v : Word) : (s.setAddr c v).schedule = s.schedule := rfl
@[simp] theorem State.setAddr_devInput (s : State) (c : ChannelIx) (v : Word) : (s.setAddr c v).devInput = s.devInput := rfl
@[simp] theorem State.setAddr_answer (s : State) (c : ChannelIx) (v : Word) : (s.setAddr c v).answer = s.answer := rfl
@[simp] theorem State.setAddr_events (s : State) (c : ChannelIx) (v : Word) : (s.setAddr c v).events = s.events := rfl
@[simp] theorem State.setAddr_bank (s : State) (c : ChannelIx) (v : Word) (b : Bank) : (s.setAddr c v).bank b = s.bank b := by cases b <;> rfl
@[simp] theorem State.setAddr_byteAt (s : State) (c : ChannelIx) (v : Word) (b : Bank) (o : Nat) : (s.setAddr c v).byteAt b o = s.byteAt b o := by
  cases b <;> rfl

/-! ## State.setBcr -/

@[simp] theorem State.setBcr_cfg (s : State) (c : ChannelIx) (v : Word) : (s.setBcr c v).cfg = s.cfg := rfl
@[simp] theorem State.setBcr_ch (s : State) (c : ChannelIx) (v : Word) : (s.setBcr c v).ch = s.ch.set c { s.ch[c] with bcr := v } := rfl
@[simp] theorem State.setBcr_prio (s : State) (c : ChannelIx) (v : Word) : (s.setBcr c v).prio = s.prio := rfl
@[simp] theorem State.setBcr_en (s : State) (c : ChannelIx) (v : Word) : (s.setBcr c v).en = s.en := rfl
@[simp] theorem State.setBcr_ie (s : State) (c : ChannelIx) (v : Word) : (s.setBcr c v).ie = s.ie := rfl
@[simp] theorem State.setBcr_iflag (s : State) (c : ChannelIx) (v : Word) : (s.setBcr c v).iflag = s.iflag := rfl
@[simp] theorem State.setBcr_mie (s : State) (c : ChannelIx) (v : Word) : (s.setBcr c v).mie = s.mie := rfl
@[simp] theorem State.setBcr_pending (s : State) (c : ChannelIx) (v : Word) : (s.setBcr c v).pending = s.pending := rfl
@[simp] theorem State.setBcr_ram (s : State) (c : ChannelIx) (v : Word) : (s.setBcr c v).ram = s.ram := rfl
@[simp] theorem State.setBcr_cram (s : State) (c : ChannelIx) (v : Word) : (s.setBcr c v).cram = s.cram := rfl
@[simp] theorem State.setBcr_memDraw (s : State) (c : ChannelIx) (v : Word) : (s.setBcr c v).memDraw = s.memDraw := rfl
@[simp] theorem State.setBcr_draws (s : State) (c : ChannelIx) (v : Word) : (s.setBcr c v).draws = s.draws := rfl
@[simp] theorem State.setBcr_schedule (s : State) (c : ChannelIx) (v : Word) : (s.setBcr c v).schedule = s.schedule := rfl
@[simp] theorem State.setBcr_devInput (s : State) (c : ChannelIx) (v : Word) : (s.setBcr c v).devInput = s.devInput := rfl
@[simp] theorem State.setBcr_answer (s : State) (c : ChannelIx) (v : Word) : (s.setBcr c v).answer = s.answer := rfl
@[simp] theorem State.setBcr_events (s : State) (c : ChannelIx) (v : Word) : (s.setBcr c v).events = s.events := rfl
@[simp] theorem State.setBcr_bank (s : State) (c : ChannelIx) (v : Word) (b : Bank) : (s.setBcr c v).bank b = s.bank b := by cases b <;> rfl
@[simp] theorem State.setBcr_byteAt (s : State) (c : ChannelIx) (v : Word) (b : Bank) (o : Nat) : (s.setBcr c v).byteAt b o = s.byteAt b o := by
  cases b <;> rfl

/-! ## State.setCtrl -/

@[simp] theorem State.setCtrl_cfg (s : State) (c : ChannelIx) (v : Word) : (s.setCtrl c v).cfg = s.cfg := rfl
@[simp] theorem State.setCtrl_ch (s : State) (c : ChannelIx) (v : Word) : (s.setCtrl c v).ch = s.ch.set c { s.ch[c] with ctrl := v } := rfl
@[simp] theorem State.setCtrl_prio (s : State) (c : ChannelIx) (v : Word) : (s.setCtrl c v).prio = s.prio := rfl
@[simp] theorem State.setCtrl_en (s : State) (c : ChannelIx) (v : Word) : (s.setCtrl c v).en = s.en := rfl
@[simp] theorem State.setCtrl_ie (s : State) (c : ChannelIx) (v : Word) : (s.setCtrl c v).ie = s.ie := rfl
@[simp] theorem State.setCtrl_iflag (s : State) (c : ChannelIx) (v : Word) : (s.setCtrl c v).iflag = s.iflag := rfl
@[simp] theorem State.setCtrl_mie (s : State) (c : ChannelIx) (v : Word) : (s.setCtrl c v).mie = s.mie := rfl
@[simp] theorem State.setCtrl_pending (s : State) (c : ChannelIx) (v : Word) : (s.setCtrl c v).pending = s.pending := rfl
@[simp] theorem State.setCtrl_ram (s : State) (c : ChannelIx) (v : Word) : (s.setCtrl c v).ram = s.ram := rfl
@[simp] theorem State.setCtrl_cram (s : State) (c : ChannelIx) (v : Word) : (s.setCtrl c v).cram = s.cram := rfl
@[simp] theorem State.setCtrl_memDraw (s : State) (c : ChannelIx) (v : Word) : (s.setCtrl c v).memDraw = s.memDraw := rfl
@[simp] theorem State.setCtrl_draws (s : State) (c : ChannelIx) (v : Word) : (s.setCtrl c v).draws = s.draws := rfl
@[simp] theorem State.setCtrl_schedule (s : State) (c : ChannelIx) (v : Word) : (s.setCtrl c v).schedule = s.schedule := rfl
@[simp] theorem State.setCtrl_devInput (s : State) (c : ChannelIx) (v : Word) : (s.setCtrl c v).devInput = s.devInput := rfl
@[simp] theorem State.setCtrl_answer (s : State) (c : ChannelIx) (v : Word) : (s.setCtrl c v).answer = s.answer := rfl
@[simp] theorem State.setCtrl_events (s : State) (c : ChannelIx) (v : Word) : (s.setCtrl c v).events = s.events := rfl
@[simp] theorem State.setCtrl_bank (s : State) (c : ChannelIx) (v : Word) (b : Bank) : (s.setCtrl c v).bank b = s.bank b := by cases b <;> rfl
@[simp] theorem State.setCtrl_byteAt (s : State) (c : ChannelIx) (v : Word) (b : Bank) (o : Nat) : (s.setCtrl c v).byteAt b o = s.byteAt b o := by
  cases b <;> rfl

/-! ## State.setFlag -/

@[simp] theorem State.setFlag_cfg (s : State) (c : ChannelIx) : (s.setFlag c).cfg = s.cfg := rfl
@[simp] theorem State.setFlag_ch (s : State) (c : ChannelIx) : (s.setFlag c).ch = s.ch := rfl
@[simp] theorem State.setFlag_prio (s : State) (c : ChannelIx) : (s.setFlag c).prio = s.prio := rfl
@[simp] theorem State.setFlag_en (s : State) (c : ChannelIx) : (s.setFlag c).en = s.en := rfl
@[simp] theorem State.setFlag_ie (s : State) (c : ChannelIx) : (s.setFlag c).ie = s.ie := rfl
@[simp] theorem State.setFlag_iflag (s : State) (c : ChannelIx) : (s.setFlag c).iflag = s.iflag.set c true := rfl
@[simp] theorem State.setFlag_mie (s : State) (c : ChannelIx) : (s.setFlag c).mie = s.mie := rfl
@[simp] theorem State.setFlag_pending (s : State) (c : ChannelIx) : (s.setFlag c).pending = s.pending := rfl
@[simp] theorem State.setFlag_ram (s : State) (c : ChannelIx) : (s.setFlag c).ram = s.ram := rfl
@[simp] theorem State.setFlag_cram (s : State) (c : ChannelIx) : (s.setFlag c).cram = s.cram := rfl
@[simp] theorem State.setFlag_memDraw (s : State) (c : ChannelIx) : (s.setFlag c).memDraw = s.memDraw := rfl
@[simp] theorem State.setFlag_draws (s : State) (c : ChannelIx) : (s.setFlag c).draws = s.draws := rfl
@[simp] theorem State.setFlag_schedule (s : State) (c : ChannelIx) : (s.setFlag c).schedule = s.schedule := rfl
@[simp] theorem State.setFlag_devInput (s : State) (c : ChannelIx) : (s.setFlag c).devInput = s.devInput := rfl
@[simp] theorem State.setFlag_answer (s : State) (c : ChannelIx) : (s.setFlag c).answer = s.answer := rfl
@[simp] theorem State.setFlag_events (s : State) (c : ChannelIx) : (s.setFlag c).events = s.events := rfl
@[simp] theorem State.setFlag_bank (s : State) (c : ChannelIx) (b : Bank) : (s.setFlag c).bank b = s.bank b := by cases b <;> rfl
@[simp] theorem State.setFlag_byteAt (s : State) (c : ChannelIx) (b : Bank) (o : Nat) : (s.setFlag c).byteAt b o = s.byteAt b o := by
  cases b <;> rfl

/-! ## State.setPending -/

@[simp] theorem State.setPending_cfg (s : State) (l : Bool) : (s.setPending l).cfg = s.cfg := rfl
@[simp] theorem State.setPending_ch (s : State) (l : Bool) : (s.setPending l).ch = s.ch := rfl
@[simp] theorem State.setPending_prio (s : State) (l : Bool) : (s.setPending l).prio = s.prio := rfl
@[simp] theorem State.setPending_en (s : State) (l : Bool) : (s.setPending l).en = s.en := rfl
@[simp] theorem State.setPending_ie (s : State) (l : Bool) : (s.setPending l).ie = s.ie := rfl
@[simp] theorem State.setPending_iflag (s : State) (l : Bool) : (s.setPending l).iflag = s.iflag := rfl
@[simp] theorem State.setPending_mie (s : State) (l : Bool) : (s.setPending l).mie = s.mie := rfl
@[simp] theorem State.setPending_ram (s : State) (l : Bool) : (s.setPending l).ram = s.ram := rfl
@[simp] theorem State.setPending_cram (s : State) (l : Bool) : (s.setPending l).cram = s.cram := rfl
@[simp] theorem State.setPending_memDraw (s : State) (l : Bool) : (s.setPending l).memDraw = s.memDraw := rfl
@[simp] theorem State.setPending_draws (s : State) (l : Bool) : (s.setPending l).draws = s.draws := rfl
@[simp] theorem State.setPending_schedule (s : State) (l : Bool) : (s.setPending l).schedule = s.schedule := rfl
@[simp] theorem State.setPending_devInput (s : State) (l : Bool) : (s.setPending l).devInput = s.devInput := rfl
@[simp] theorem State.setPending_answer (s : State) (l : Bool) : (s.setPending l).answer = s.answer := rfl
@[simp] theorem State.setPending_pending (s : State) (l : Bool) : (s.setPending l).pending = l := rfl
@[simp] theorem State.setPending_events (s : State) (l : Bool) :
    (s.setPending l).events = irqRecord s.pending l ++ s.events := rfl
@[simp] theorem State.setPending_bank (s : State) (l : Bool) (b : Bank) : (s.setPending l).bank b = s.bank b := by cases b <;> rfl
@[simp] theorem State.setPending_byteAt (s : State) (l : Bool) (b : Bank) (o : Nat) : (s.setPending l).byteAt b o = s.byteAt b o := by
  cases b <;> rfl

/-! ## The level `irq_out` in the history (R23) -/

@[simp] theorem irqRecord_self (l : Bool) : irqRecord l l = [] := by simp [irqRecord]

/-- An entry of a level's record is the new level, and the level has changed. -/
theorem mem_irqRecord {before after : Bool} {e : Event} :
    e ∈ irqRecord before after ↔ before ≠ after ∧ e = .irqOut after := by
  unfold irqRecord
  split <;> simp_all

/-- All of a level's record is levels. -/
@[simp] theorem filter_irqRecord (before after : Bool) :
    (irqRecord before after).filter Event.isLevel = irqRecord before after := by
  unfold irqRecord
  split <;> rfl

/-- After a level's record the history tells the new level, if it told the old one. -/
theorem recordedLevel_irqRecord {before after : Bool} {es : List Event} (h : recordedLevel es = before) :
    recordedLevel (irqRecord before after ++ es) = after := by
  unfold irqRecord
  split
  · rename_i he
    exact h.trans he
  · rfl

/-- Entries that are no level leave the level the history tells. -/
theorem recordedLevel_append {added es : List Event} (h : ∀ e ∈ added, e.isLevel = false) :
    recordedLevel (added ++ es) = recordedLevel es := by
  induction added with
  | nil => rfl
  | cons e added ih =>
    have hr := ih (fun x hx => h x (List.mem_cons_of_mem _ hx))
    have he := h e List.mem_cons_self
    cases e <;> first | exact hr | cases he

/-! ## intSignal -/

@[simp] theorem intSignal_cfg (s : State) : (intSignal s).cfg = s.cfg := rfl
@[simp] theorem intSignal_ch (s : State) : (intSignal s).ch = s.ch := rfl
@[simp] theorem intSignal_prio (s : State) : (intSignal s).prio = s.prio := rfl
@[simp] theorem intSignal_en (s : State) : (intSignal s).en = s.en := rfl
@[simp] theorem intSignal_ie (s : State) : (intSignal s).ie = s.ie := rfl
@[simp] theorem intSignal_iflag (s : State) : (intSignal s).iflag = s.iflag := rfl
@[simp] theorem intSignal_mie (s : State) : (intSignal s).mie = s.mie := rfl
@[simp] theorem intSignal_pending (s : State) : (intSignal s).pending = true := rfl
@[simp] theorem intSignal_ram (s : State) : (intSignal s).ram = s.ram := rfl
@[simp] theorem intSignal_cram (s : State) : (intSignal s).cram = s.cram := rfl
@[simp] theorem intSignal_memDraw (s : State) : (intSignal s).memDraw = s.memDraw := rfl
@[simp] theorem intSignal_draws (s : State) : (intSignal s).draws = s.draws := rfl
@[simp] theorem intSignal_schedule (s : State) : (intSignal s).schedule = s.schedule := rfl
@[simp] theorem intSignal_devInput (s : State) : (intSignal s).devInput = s.devInput := rfl
@[simp] theorem intSignal_answer (s : State) : (intSignal s).answer = s.answer := rfl
@[simp] theorem intSignal_events (s : State) : (intSignal s).events =
    irqRecord s.pending true ++ .intSignal :: s.events := rfl
@[simp] theorem intSignal_bank (s : State) (b : Bank) : (intSignal s).bank b = s.bank b := by cases b <;> rfl
@[simp] theorem intSignal_byteAt (s : State) (b : Bank) (o : Nat) : (intSignal s).byteAt b o = s.byteAt b o := by
  cases b <;> rfl

/-! ## intAcknowledge -/

@[simp] theorem intAcknowledge_cfg (s : State) : (intAcknowledge s).cfg = s.cfg := rfl
@[simp] theorem intAcknowledge_ch (s : State) : (intAcknowledge s).ch = s.ch := rfl
@[simp] theorem intAcknowledge_prio (s : State) : (intAcknowledge s).prio = s.prio := rfl
@[simp] theorem intAcknowledge_en (s : State) : (intAcknowledge s).en = s.en := rfl
@[simp] theorem intAcknowledge_ie (s : State) : (intAcknowledge s).ie = s.ie := rfl
@[simp] theorem intAcknowledge_iflag (s : State) : (intAcknowledge s).iflag = s.iflag := rfl
@[simp] theorem intAcknowledge_mie (s : State) : (intAcknowledge s).mie = s.mie := rfl
@[simp] theorem intAcknowledge_pending (s : State) : (intAcknowledge s).pending = false := rfl
@[simp] theorem intAcknowledge_ram (s : State) : (intAcknowledge s).ram = s.ram := rfl
@[simp] theorem intAcknowledge_cram (s : State) : (intAcknowledge s).cram = s.cram := rfl
@[simp] theorem intAcknowledge_memDraw (s : State) : (intAcknowledge s).memDraw = s.memDraw := rfl
@[simp] theorem intAcknowledge_draws (s : State) : (intAcknowledge s).draws = s.draws := rfl
@[simp] theorem intAcknowledge_schedule (s : State) : (intAcknowledge s).schedule = s.schedule := rfl
@[simp] theorem intAcknowledge_devInput (s : State) : (intAcknowledge s).devInput = s.devInput := rfl
@[simp] theorem intAcknowledge_answer (s : State) : (intAcknowledge s).answer = s.answer := rfl
@[simp] theorem intAcknowledge_events (s : State) : (intAcknowledge s).events =
    irqRecord s.pending false ++ s.events := rfl
@[simp] theorem intAcknowledge_bank (s : State) (b : Bank) : (intAcknowledge s).bank b = s.bank b := by cases b <;> rfl
@[simp] theorem intAcknowledge_byteAt (s : State) (b : Bank) (o : Nat) : (intAcknowledge s).byteAt b o = s.byteAt b o := by
  cases b <;> rfl

/-! ## State.setBank -/

@[simp] theorem State.setBank_cfg (s : State) (b : Bank) (m : Memory) : (s.setBank b m).cfg = s.cfg := by cases b <;> rfl
@[simp] theorem State.setBank_ch (s : State) (b : Bank) (m : Memory) : (s.setBank b m).ch = s.ch := by cases b <;> rfl
@[simp] theorem State.setBank_prio (s : State) (b : Bank) (m : Memory) : (s.setBank b m).prio = s.prio := by cases b <;> rfl
@[simp] theorem State.setBank_en (s : State) (b : Bank) (m : Memory) : (s.setBank b m).en = s.en := by cases b <;> rfl
@[simp] theorem State.setBank_ie (s : State) (b : Bank) (m : Memory) : (s.setBank b m).ie = s.ie := by cases b <;> rfl
@[simp] theorem State.setBank_iflag (s : State) (b : Bank) (m : Memory) : (s.setBank b m).iflag = s.iflag := by cases b <;> rfl
@[simp] theorem State.setBank_mie (s : State) (b : Bank) (m : Memory) : (s.setBank b m).mie = s.mie := by cases b <;> rfl
@[simp] theorem State.setBank_pending (s : State) (b : Bank) (m : Memory) : (s.setBank b m).pending = s.pending := by cases b <;> rfl
@[simp] theorem State.setBank_memDraw (s : State) (b : Bank) (m : Memory) : (s.setBank b m).memDraw = s.memDraw := by cases b <;> rfl
@[simp] theorem State.setBank_draws (s : State) (b : Bank) (m : Memory) : (s.setBank b m).draws = s.draws := by cases b <;> rfl
@[simp] theorem State.setBank_schedule (s : State) (b : Bank) (m : Memory) : (s.setBank b m).schedule = s.schedule := by cases b <;> rfl
@[simp] theorem State.setBank_devInput (s : State) (b : Bank) (m : Memory) : (s.setBank b m).devInput = s.devInput := by cases b <;> rfl
@[simp] theorem State.setBank_answer (s : State) (b : Bank) (m : Memory) : (s.setBank b m).answer = s.answer := by cases b <;> rfl
@[simp] theorem State.setBank_events (s : State) (b : Bank) (m : Memory) : (s.setBank b m).events = s.events := by cases b <;> rfl
@[simp] theorem State.setBank_bank (s : State) (b b' : Bank) (m : Memory) :
    (s.setBank b m).bank b' = if b' = b then m else s.bank b' := by
  cases b <;> cases b' <;> rfl

/-! ## Memories -/

@[simp] theorem State.bank_ram (s : State) : s.bank .ram = s.ram := rfl
@[simp] theorem State.bank_cram (s : State) : s.bank .cram = s.cram := rfl

/-- What a byte reads as depends on the array and on which reset the memories were drawn at, and on nothing else. -/
theorem State.byteAt_congr {s t : State} {b : Bank} (hb : t.bank b = s.bank b) (hd : t.memDraw = s.memDraw) (o : Nat) :
    t.byteAt b o = s.byteAt b o := by
  simp only [State.byteAt, hb, hd]

end Sys2Proof.Machine
end

