-- ==== Sys2Proof/Laws/Memory.lean ====
section
/-! SUPPORT. The laws of a byte array and of the two memories: a read after a write, the canonical form, the bound. -/

namespace Sys2Proof.Machine

/-! ## A byte array -/

theorem Memory.read_write (m : Memory) (o : Nat) (b : Byte) (o' : Nat) :
    Memory.read (Memory.write m o b) o' = if o' = o then some b else Memory.read m o' := by
  induction m with
  | nil => simp [Memory.write, Memory.read, eq_comm]
  | cons e m ih =>
    obtain ⟨k, x⟩ := e
    by_cases h₁ : o < k
    · simp [Memory.write, Memory.read, h₁, eq_comm]
    · by_cases h₂ : o = k
      · subst h₂
        by_cases h₃ : o' = o
        · simp [Memory.write, Memory.read, h₃]
        · simp [Memory.write, Memory.read, h₃, Ne.symm h₃]
      · by_cases h₃ : k = o'
        · subst h₃
          simp [Memory.write, Memory.read, h₁, h₂, Ne.symm h₂]
        · simp [Memory.write, Memory.read, h₁, h₂, h₃, ih]

/-- An entry of the array after a write is the byte written or an entry of the array before. -/
theorem Memory.mem_write {m : Memory} {o : Nat} {b : Byte} {e : Host.Cell} (h : e ∈ Memory.write m o b) :
    e = (o, b) ∨ e ∈ m := by
  induction m with
  | nil => simpa [Memory.write] using h
  | cons x m ih =>
    obtain ⟨k, y⟩ := x
    simp only [Memory.write] at h
    split at h
    · simpa using h
    · split at h
      · rcases List.mem_cons.mp h with h | h
        · exact .inl h
        · exact .inr (List.mem_cons_of_mem _ h)
      · rcases List.mem_cons.mp h with h | h
        · exact .inr (h ▸ List.mem_cons_self)
        · rcases ih h with h | h
          · exact .inl h
          · exact .inr (List.mem_cons_of_mem _ h)

theorem Memory.wf_nil : Memory.wf [] := by simp [Memory.wf]

/-- Every memory operation keeps the canonical form: `write` is the only one. -/
theorem Memory.wf_write {m : Memory} (o : Nat) (b : Byte) (h : Memory.wf m) : Memory.wf (Memory.write m o b) := by
  refine ⟨?_, fun e _ => by simp [Memory.unlisted]⟩
  have hp := h.1
  clear h
  induction m with
  | nil => simp [Memory.write]
  | cons x m ih =>
    obtain ⟨k, y⟩ := x
    rw [List.pairwise_cons] at hp
    simp only [Memory.write]
    split
    · rename_i hlt
      refine List.pairwise_cons.mpr ⟨fun e he => ?_, List.pairwise_cons.mpr hp⟩
      rcases List.mem_cons.mp he with rfl | he
      · exact hlt
      · exact Nat.lt_trans hlt (hp.1 e he)
    · rename_i hnlt
      split
      · rename_i heq
        subst heq
        exact List.pairwise_cons.mpr ⟨hp.1, hp.2⟩
      · rename_i hne
        refine List.pairwise_cons.mpr ⟨fun e he => ?_, ih hp.2⟩
        rcases Memory.mem_write he with rfl | he
        · show k < o
          omega
        · exact hp.1 e he

theorem Memory.within_nil (n : Nat) : Memory.within [] n := by simp [Memory.within]

theorem Memory.within_write {m : Memory} {n o : Nat} (b : Byte) (h : Memory.within m n) (ho : o < n) :
    Memory.within (Memory.write m o b) n := by
  intro e he
  rcases Memory.mem_write he with rfl | he
  · exact ho
  · exact h e he

/-! ## One byte stored -/

/-- Reading any byte after one byte of a memory is written. -/
theorem State.byteAt_setBank_write (s : State) (b : Bank) (o : Nat) (x : Byte) (b' : Bank) (o' : Nat) :
    (s.setBank b ((s.bank b).write o x)).byteAt b' o' = if b' = b ∧ o' = o then x else s.byteAt b' o' := by
  by_cases hb : b' = b
  · subst hb
    by_cases ho : o' = o
    · simp [State.byteAt, Memory.read_write, ho]
    · simp [State.byteAt, Memory.read_write, ho]
  · simp [State.byteAt, hb]

/-! ## Bytes stored: everything `storeBytes` can do -/

/-- `storeBytes` changes the one memory and nothing else. -/
theorem State.storeBytes_eq (s : State) (b : Bank) (o : Nat) (xs : List Byte) :
    s.storeBytes b o xs = s.setBank b ((s.storeBytes b o xs).bank b) := by
  induction xs generalizing s o with
  | nil => cases b <;> rfl
  | cons x xs ih =>
    rw [State.storeBytes, ih]
    cases b <;> rfl

@[simp] theorem State.storeBytes_cfg (s : State) (b : Bank) (o : Nat) (xs : List Byte) :
    (s.storeBytes b o xs).cfg = s.cfg := by rw [State.storeBytes_eq, State.setBank_cfg]
@[simp] theorem State.storeBytes_ch (s : State) (b : Bank) (o : Nat) (xs : List Byte) :
    (s.storeBytes b o xs).ch = s.ch := by rw [State.storeBytes_eq, State.setBank_ch]
@[simp] theorem State.storeBytes_prio (s : State) (b : Bank) (o : Nat) (xs : List Byte) :
    (s.storeBytes b o xs).prio = s.prio := by rw [State.storeBytes_eq, State.setBank_prio]
@[simp] theorem State.storeBytes_en (s : State) (b : Bank) (o : Nat) (xs : List Byte) :
    (s.storeBytes b o xs).en = s.en := by rw [State.storeBytes_eq, State.setBank_en]
@[simp] theorem State.storeBytes_ie (s : State) (b : Bank) (o : Nat) (xs : List Byte) :
    (s.storeBytes b o xs).ie = s.ie := by rw [State.storeBytes_eq, State.setBank_ie]
@[simp] theorem State.storeBytes_iflag (s : State) (b : Bank) (o : Nat) (xs : List Byte) :
    (s.storeBytes b o xs).iflag = s.iflag := by rw [State.storeBytes_eq, State.setBank_iflag]
@[simp] theorem State.storeBytes_mie (s : State) (b : Bank) (o : Nat) (xs : List Byte) :
    (s.storeBytes b o xs).mie = s.mie := by rw [State.storeBytes_eq, State.setBank_mie]
@[simp] theorem State.storeBytes_pending (s : State) (b : Bank) (o : Nat) (xs : List Byte) :
    (s.storeBytes b o xs).pending = s.pending := by rw [State.storeBytes_eq, State.setBank_pending]
@[simp] theorem State.storeBytes_memDraw (s : State) (b : Bank) (o : Nat) (xs : List Byte) :
    (s.storeBytes b o xs).memDraw = s.memDraw := by rw [State.storeBytes_eq, State.setBank_memDraw]
@[simp] theorem State.storeBytes_draws (s : State) (b : Bank) (o : Nat) (xs : List Byte) :
    (s.storeBytes b o xs).draws = s.draws := by rw [State.storeBytes_eq, State.setBank_draws]
@[simp] theorem State.storeBytes_schedule (s : State) (b : Bank) (o : Nat) (xs : List Byte) :
    (s.storeBytes b o xs).schedule = s.schedule := by rw [State.storeBytes_eq, State.setBank_schedule]
@[simp] theorem State.storeBytes_devInput (s : State) (b : Bank) (o : Nat) (xs : List Byte) :
    (s.storeBytes b o xs).devInput = s.devInput := by rw [State.storeBytes_eq, State.setBank_devInput]
@[simp] theorem State.storeBytes_answer (s : State) (b : Bank) (o : Nat) (xs : List Byte) :
    (s.storeBytes b o xs).answer = s.answer := by rw [State.storeBytes_eq, State.setBank_answer]
@[simp] theorem State.storeBytes_events (s : State) (b : Bank) (o : Nat) (xs : List Byte) :
    (s.storeBytes b o xs).events = s.events := by rw [State.storeBytes_eq, State.setBank_events]

/-- Reading any byte after bytes are stored: byte `i` of the stored ones at index `o + i`, every other as before. -/
theorem State.byteAt_storeBytes (s : State) (b : Bank) (o : Nat) (xs : List Byte) (b' : Bank) (o' : Nat) :
    (s.storeBytes b o xs).byteAt b' o' =
      (if b' = b ∧ o ≤ o' then xs[o' - o]? else none).getD (s.byteAt b' o') := by
  induction xs generalizing s o with
  | nil => simp [State.storeBytes]
  | cons x xs ih =>
    rw [State.storeBytes, ih, State.byteAt_setBank_write]
    by_cases hb : b' = b
    · subst hb
      rcases Nat.lt_trichotomy o' o with ho | ho | ho
      · simp [show ¬ o ≤ o' by omega, show ¬ o + 1 ≤ o' by omega, show o' ≠ o by omega]
      · subst ho
        simp
      · have he : o' - o = (o' - (o + 1)) + 1 := by omega
        simp [show o ≤ o' by omega, show o + 1 ≤ o' by omega, show o' ≠ o by omega, he]
    · simp [hb]

/-- Storing bytes keeps the canonical form of the memory. -/
theorem State.storeBytes_wf (s : State) (b b' : Bank) (o : Nat) (xs : List Byte) (h : Memory.wf (s.bank b')) :
    Memory.wf ((s.storeBytes b o xs).bank b') := by
  induction xs generalizing s o with
  | nil => exact h
  | cons x xs ih =>
    refine ih _ _ ?_
    rw [State.setBank_bank]
    split
    · rename_i hb
      subst hb
      exact Memory.wf_write _ _ h
    · exact h

/-- Storing bytes inside an array keeps its bound. -/
theorem State.storeBytes_within (s : State) (b b' : Bank) (o n : Nat) (xs : List Byte)
    (h : Memory.within (s.bank b') n) (ho : b' = b → o + xs.length ≤ n) :
    Memory.within ((s.storeBytes b o xs).bank b') n := by
  induction xs generalizing s o with
  | nil => exact h
  | cons x xs ih =>
    refine ih _ _ ?_ (fun hb => by have := ho hb; simp at this; omega)
    rw [State.setBank_bank]
    split
    · rename_i hb
      subst hb
      have := ho rfl
      simp at this
      exact Memory.within_write _ h (by omega)
    · exact h

end Sys2Proof.Machine
end

