-- ==== Sys2Proof/Laws/Region.lean ====
section
/-! SUPPORT. The region decode: what an access inside a region says of its addresses, and the second level of the DMA
window. -/

namespace Sys2Proof

/-- The region decode in numbers (R33). -/
theorem region_eq (cfg : Config) (a : Word) (n : Nat) : region cfg a n =
    if 2 ^ 32 < a.toNat + n then .unmapped
    else if cfg.ramBase.toNat ≤ a.toNat ∧ a.toNat + n ≤ cfg.ramBase.toNat + cfg.ramSize then .ram
    else if cfg.cramBase.toNat ≤ a.toNat ∧ a.toNat + n ≤ cfg.cramBase.toNat + cfg.cramSize then .cram
    else if cfg.devBase.toNat ≤ a.toNat ∧ a.toNat + n ≤ cfg.devBase.toNat + cfg.devSize then .dev
    else if cfg.dmaBase.toNat ≤ a.toNat ∧ a.toNat + n ≤ cfg.dmaBase.toNat + 512 then .dma
    else .unmapped := by
  simp only [region, allBytesIn, Bool.and_eq_true, decide_eq_true_eq]
  rfl

/-- An access inside a region does not wrap (R33). -/
theorem region_no_wrap {cfg : Config} {a : Word} {n : Nat} (h : region cfg a n ≠ .unmapped) :
    a.toNat + n ≤ 2 ^ 32 := by
  rw [region_eq] at h
  split at h
  · exact absurd rfl h
  · omega

/-- An access inside a memory's region lies between its base and its end (R32, R33). -/
theorem region_bank {cfg : Config} {a : Word} {n : Nat} {b : Bank} (h : region cfg a n = b.region) :
    (b.base cfg).toNat ≤ a.toNat ∧ a.toNat + n ≤ (b.base cfg).toNat + b.size cfg ∧ a.toNat + n ≤ 2 ^ 32 := by
  rw [region_eq] at h
  cases b <;> simp only [Bank.region, Bank.base, Bank.size] at h ⊢ <;> (split_ifs at h; omega)

/-- An access inside the DMA window lies between its base and its end (R32, R33). -/
theorem region_dma {cfg : Config} {a : Word} {n : Nat} (h : region cfg a n = .dma) :
    cfg.dmaBase.toNat ≤ a.toNat ∧ a.toNat + n ≤ cfg.dmaBase.toNat + 512 ∧ a.toNat + n ≤ 2 ^ 32 := by
  rw [region_eq] at h
  split_ifs at h <;> omega

/-- The bytes of an access inside a memory's region are indexes of its array (R22, R37). -/
theorem bankOffset_lt {cfg : Config} {a : Word} {n : Nat} {b : Bank} (h : region cfg a n = b.region) :
    bankOffset cfg b a + n ≤ b.size cfg := by
  have := region_bank h
  unfold bankOffset
  omega

/-- In a memory's region an address is known by its index (R34). -/
theorem bankOffset_injective {cfg : Config} {a a' : Word} {b : Bank} (h : region cfg a 1 = b.region)
    (h' : region cfg a' 1 = b.region) (he : bankOffset cfg b a = bankOffset cfg b a') : a = a' := by
  have := region_bank h
  have := region_bank h'
  unfold bankOffset at he
  apply BitVec.eq_of_toNat_eq
  omega

/-- An access inside a region is inside by its first byte and by any part of it: for RAM, under any configuration. -/
theorem region_ram_part {cfg : Config} {a x : Word} {n m : Nat} (h : region cfg a n = .ram) (hx : a.toNat ≤ x.toNat)
    (hm : x.toNat + m ≤ a.toNat + n) : region cfg x m = .ram := by
  have hr := region_bank (b := .ram) h
  simp only [Bank.base, Bank.size] at hr
  rw [region_eq, if_neg (by omega), if_pos (by omega)]

/-- What a well-formed configuration says of the four regions, in numbers (R7). -/
theorem Config.wf_iff (cfg : Config) : cfg.wf = true ↔
    (cfg.ramBase.toNat + cfg.ramSize ≤ cfg.cramBase.toNat ∨ cfg.cramBase.toNat + cfg.cramSize ≤ cfg.ramBase.toNat) ∧
    (cfg.ramBase.toNat + cfg.ramSize ≤ cfg.devBase.toNat ∨ cfg.devBase.toNat + cfg.devSize ≤ cfg.ramBase.toNat) ∧
    (cfg.ramBase.toNat + cfg.ramSize ≤ cfg.dmaBase.toNat ∨ cfg.dmaBase.toNat + 512 ≤ cfg.ramBase.toNat) ∧
    (cfg.cramBase.toNat + cfg.cramSize ≤ cfg.devBase.toNat ∨ cfg.devBase.toNat + cfg.devSize ≤ cfg.cramBase.toNat) ∧
    (cfg.cramBase.toNat + cfg.cramSize ≤ cfg.dmaBase.toNat ∨ cfg.dmaBase.toNat + 512 ≤ cfg.cramBase.toNat) ∧
    (cfg.devBase.toNat + cfg.devSize ≤ cfg.dmaBase.toNat ∨ cfg.dmaBase.toNat + 512 ≤ cfg.devBase.toNat) ∧
    cfg.ramBase.toNat + cfg.ramSize ≤ 2 ^ 32 ∧ cfg.cramBase.toNat + cfg.cramSize ≤ 2 ^ 32 ∧
    cfg.devBase.toNat + cfg.devSize ≤ 2 ^ 32 ∧ cfg.dmaBase.toNat + 512 ≤ 2 ^ 32 ∧
    0 < cfg.ramSize ∧ 0 < cfg.cramSize ∧ 0 < cfg.devSize ∧ cfg.dmaBase.toNat % 512 = 0 := by
  simp only [Config.wf, Config.apart, Bool.and_eq_true, Bool.or_eq_true, decide_eq_true_eq, and_assoc]
  rfl

theorem vectorDefault_wf : Config.vectorDefault.wf = true := by decide

end Sys2Proof
end

