-- ==== Sys2Proof/Laws/Transfer.lean ====
section
/-! SUPPORT. What the engine's shared operations can do: the byte accesses, the device port, `xfer`, the tag read, the
completion, the units of work, and what the arbiter reads. -/

namespace Sys2Proof.Machine

/-! ## The engine's byte accesses -/

/-- A byte read takes at most one draw and changes nothing else (R47, R109). -/
theorem busReadByte_state (a : Word) (s : State) :
    ∃ d, s.draws ≤ d ∧ d ≤ s.draws + 1 ∧ (busReadByte a s).2 = { s with draws := d } := by
  unfold busReadByte
  split <;> first | exact ⟨s.draws, by omega, by omega, rfl⟩ | exact ⟨s.draws + 1, by omega, by omega, rfl⟩

/-- A byte read of RAM or CRAM takes the byte of that memory and no draw (R71, R73). -/
theorem busReadByte_bank {a : Word} {s : State} {b : Bank} (h : region s.cfg a 1 = b.region) :
    busReadByte a s = (s.byteAt b (bankOffset s.cfg b a), s) := by
  unfold busReadByte
  cases b <;> simp only [Bank.region] at h <;> simp [h]

/-- A byte write changes at most the memories and records the events of R109. -/
theorem busWriteByte_eq (a : Word) (x : Byte) (s : State) :
    busWriteByte a x s = { s with
      ram := (busWriteByte a x s).ram, cram := (busWriteByte a x s).cram,
      events := byteWriteEvents s.cfg a x ++ s.events } := by
  unfold busWriteByte byteWriteEvents
  generalize region s.cfg a 1 = r
  cases r <;> rfl

/-- Reading any byte after a byte write: the byte written where its address is in that memory, else as before. -/
theorem busWriteByte_byteAt (a : Word) (x : Byte) (s : State) (b : Bank) (o : Nat) :
    (busWriteByte a x s).byteAt b o =
      if region s.cfg a 1 = b.region ∧ o = bankOffset s.cfg b a then x else s.byteAt b o := by
  unfold busWriteByte
  split <;> rename_i h
  · rw [State.emit_byteAt, State.storeBytes, State.storeBytes, State.byteAt_setBank_write]
    cases b <;> simp [h, Bank.region]
  · rw [State.emit_byteAt, State.storeBytes, State.storeBytes, State.byteAt_setBank_write]
    cases b <;> simp [h, Bank.region]
  all_goals cases b <;> simp [h, Bank.region]

/-- A byte write keeps the canonical form of each memory and its bound. -/
theorem busWriteByte_memory (a : Word) (x : Byte) (s : State) (b : Bank) (hw : Memory.wf (s.bank b))
    (hn : Memory.within (s.bank b) (b.size s.cfg)) :
    Memory.wf ((busWriteByte a x s).bank b) ∧ Memory.within ((busWriteByte a x s).bank b) (b.size s.cfg) := by
  unfold busWriteByte
  split
  · rename_i h
    refine ⟨by simpa using State.storeBytes_wf _ _ _ _ _ hw, ?_⟩
    simp only [State.emit_bank]
    refine State.storeBytes_within _ _ _ _ _ _ hn (fun hb => ?_)
    subst hb
    exact bankOffset_lt (b := .ram) h
  · rename_i h
    refine ⟨by simpa using State.storeBytes_wf _ _ _ _ _ hw, ?_⟩
    simp only [State.emit_bank]
    refine State.storeBytes_within _ _ _ _ _ _ hn (fun hb => ?_)
    subst hb
    exact bankOffset_lt (b := .cram) h
  · exact ⟨by simpa using hw, by simpa using hn⟩
  · exact ⟨hw, hn⟩
  · exact ⟨hw, hn⟩

/-! ## The device port -/

/-- `DevIn(c)` takes the next byte of channel `c`'s port, fixed or drawn, and changes nothing else (R110). -/
theorem devIn_state (c : ChannelIx) (s : State) :
    ∃ d, s.draws ≤ d ∧ d ≤ s.draws + 1 ∧
      (devIn c s).2 = { s with draws := d, devInput := s.devInput.set c (s.devInput[c].drop 1) } := by
  unfold devIn
  split
  · rename_i b q h
    exact ⟨s.draws, by omega, by omega, by rw [h]; rfl⟩
  · rename_i h
    refine ⟨s.draws + 1, by omega, by omega, ?_⟩
    have he : s.devInput.set c (s.devInput[c].drop 1) = s.devInput := by
      rw [h, List.drop_nil, ← h]
      exact Vector.set_getElem_self c.isLt
    rw [he]
    rfl

theorem devIn_byte (c : ChannelIx) (s : State) : (devIn c s).1 = deviceByte s c 0 := by
  unfold devIn deviceByte
  split
  · rename_i b q h
    simp [h]
  · rename_i h
    simp [h, State.draw]

/-! ## `xfer` and the tag read -/

/-- A moved byte changes the memories, the draws taken, the device port and the history, and nothing else. -/
theorem moveByte_eq (c : ChannelIx) (a : Word) (dir : Direction) (s : State) :
    moveByte c a dir s = { s with
      ram := (moveByte c a dir s).ram, cram := (moveByte c a dir s).cram, draws := (moveByte c a dir s).draws,
      devInput := (moveByte c a dir s).devInput, events := (moveByte c a dir s).events } ∧
    s.draws ≤ (moveByte c a dir s).draws := by
  cases dir with
  | fromDevice =>
    obtain ⟨d, h₁, -, h⟩ := devIn_state c s
    simp only [moveByte]
    rw [busWriteByte_eq, h]
    exact ⟨rfl, h₁⟩
  | toDevice =>
    obtain ⟨d, h₁, -, h⟩ := busReadByte_state a s
    simp only [moveByte, devOut, State.emit]
    rw [h]
    exact ⟨rfl, h₁⟩

/-- `xfer` changes the memories, the draws taken, the device port and the history, and nothing else: no register, flag or
enable, and not the sink (R109, R47). -/
theorem xfer_eq (c : ChannelIx) (a : Word) (n : Nat) (dir : Direction) (s : State) :
    xfer c a n dir s = { s with
      ram := (xfer c a n dir s).ram, cram := (xfer c a n dir s).cram, draws := (xfer c a n dir s).draws,
      devInput := (xfer c a n dir s).devInput, events := (xfer c a n dir s).events } ∧
    s.draws ≤ (xfer c a n dir s).draws := by
  induction n generalizing a s with
  | zero => exact ⟨rfl, Nat.le_refl _⟩
  | succ n ih =>
    obtain ⟨h, hd⟩ := ih (a + 1#32) (moveByte c a dir s)
    obtain ⟨h', hd'⟩ := moveByte_eq c a dir s
    rw [xfer]
    refine ⟨?_, Nat.le_trans hd' hd⟩
    rw [h, h']

@[simp] theorem xfer_cfg (c : ChannelIx) (a : Word) (n : Nat) (dir : Direction) (s : State) :
    (xfer c a n dir s).cfg = s.cfg := by rw [(xfer_eq c a n dir s).1]
@[simp] theorem xfer_ch (c : ChannelIx) (a : Word) (n : Nat) (dir : Direction) (s : State) :
    (xfer c a n dir s).ch = s.ch := by rw [(xfer_eq c a n dir s).1]
@[simp] theorem xfer_prio (c : ChannelIx) (a : Word) (n : Nat) (dir : Direction) (s : State) :
    (xfer c a n dir s).prio = s.prio := by rw [(xfer_eq c a n dir s).1]
@[simp] theorem xfer_en (c : ChannelIx) (a : Word) (n : Nat) (dir : Direction) (s : State) :
    (xfer c a n dir s).en = s.en := by rw [(xfer_eq c a n dir s).1]
@[simp] theorem xfer_ie (c : ChannelIx) (a : Word) (n : Nat) (dir : Direction) (s : State) :
    (xfer c a n dir s).ie = s.ie := by rw [(xfer_eq c a n dir s).1]
@[simp] theorem xfer_iflag (c : ChannelIx) (a : Word) (n : Nat) (dir : Direction) (s : State) :
    (xfer c a n dir s).iflag = s.iflag := by rw [(xfer_eq c a n dir s).1]
@[simp] theorem xfer_mie (c : ChannelIx) (a : Word) (n : Nat) (dir : Direction) (s : State) :
    (xfer c a n dir s).mie = s.mie := by rw [(xfer_eq c a n dir s).1]
@[simp] theorem xfer_pending (c : ChannelIx) (a : Word) (n : Nat) (dir : Direction) (s : State) :
    (xfer c a n dir s).pending = s.pending := by rw [(xfer_eq c a n dir s).1]
@[simp] theorem xfer_memDraw (c : ChannelIx) (a : Word) (n : Nat) (dir : Direction) (s : State) :
    (xfer c a n dir s).memDraw = s.memDraw := by rw [(xfer_eq c a n dir s).1]
@[simp] theorem xfer_schedule (c : ChannelIx) (a : Word) (n : Nat) (dir : Direction) (s : State) :
    (xfer c a n dir s).schedule = s.schedule := by rw [(xfer_eq c a n dir s).1]
@[simp] theorem xfer_answer (c : ChannelIx) (a : Word) (n : Nat) (dir : Direction) (s : State) :
    (xfer c a n dir s).answer = s.answer := by rw [(xfer_eq c a n dir s).1]

/-- The tag read takes at most four draws and changes nothing else (R109). -/
theorem dmaRead32_state (a : Word) (s : State) :
    ∃ d, s.draws ≤ d ∧ d ≤ s.draws + 4 ∧ (dmaRead32 a s).2 = { s with draws := d } := by
  obtain ⟨d0, l0, u0, h0⟩ := busReadByte_state a s
  obtain ⟨d1, l1, u1, h1⟩ := busReadByte_state (a + 1#32) (busReadByte a s).2
  obtain ⟨d2, l2, u2, h2⟩ := busReadByte_state (a + 2#32) (busReadByte (a + 1#32) (busReadByte a s).2).2
  obtain ⟨d3, l3, u3, h3⟩ := busReadByte_state (a + 3#32)
    (busReadByte (a + 2#32) (busReadByte (a + 1#32) (busReadByte a s).2).2).2
  have e0 : (busReadByte a s).2.draws = d0 := by rw [h0]
  have e1 : (busReadByte (a + 1#32) (busReadByte a s).2).2.draws = d1 := by rw [h1]
  have e2 : (busReadByte (a + 2#32) (busReadByte (a + 1#32) (busReadByte a s).2).2).2.draws = d2 := by rw [h2]
  refine ⟨d3, by omega, by omega, ?_⟩
  show (busReadByte (a + 3#32) (busReadByte (a + 2#32) (busReadByte (a + 1#32) (busReadByte a s).2).2).2).2 = _
  rw [h3, h2, h1, h0]

/-! ## What the engine's work announces and keeps -/

/-- The history grows between `s` and `u` without a signal or a change of level, and every byte of memory that reads differently after is named
by an `Invalidate` among the new events (R46, R109). -/
def Announced (s u : State) : Prop :=
  ∃ added : List Event, u.events = added ++ s.events ∧ (∀ e ∈ added, e ≠ Event.intSignal ∧ e.isLevel = false) ∧
    ∀ (b : Bank) (o : Nat), u.byteAt b o ≠ s.byteAt b o →
      ∃ a : Word, Event.invalidate a 1 ∈ added ∧ region s.cfg a 1 = b.region ∧ bankOffset s.cfg b a = o

theorem Announced.of_unchanged {s u : State} (he : u.events = s.events) (hb : ∀ b o, u.byteAt b o = s.byteAt b o) :
    Announced s u :=
  ⟨[], he, by simp, fun b o h => absurd (hb b o) h⟩

theorem Announced.trans {s t u : State} (hc : t.cfg = s.cfg) (h₁ : Announced s t) (h₂ : Announced t u) :
    Announced s u := by
  obtain ⟨x, hx, hxs, hxb⟩ := h₁
  obtain ⟨y, hy, hys, hyb⟩ := h₂
  refine ⟨y ++ x, by rw [hy, hx, List.append_assoc], fun e he => (List.mem_append.mp he).elim (hys e) (hxs e), fun b o h => ?_⟩
  by_cases he : u.byteAt b o = t.byteAt b o
  · obtain ⟨a, h₁, h₂⟩ := hxb b o (he ▸ h)
    exact ⟨a, List.mem_append_right _ h₁, h₂⟩
  · obtain ⟨a, h₁, h₂⟩ := hyb b o he
    exact ⟨a, List.mem_append_left _ h₁, by rwa [hc] at h₂⟩

/-- Both memories keep their canonical form and their bounds between `s` and `u`. -/
def KeepsMemories (s u : State) : Prop :=
  ∀ b : Bank, Memory.wf (s.bank b) → Memory.within (s.bank b) (b.size s.cfg) →
    Memory.wf (u.bank b) ∧ Memory.within (u.bank b) (b.size s.cfg)

theorem KeepsMemories.of_unchanged {s u : State} (hb : ∀ b, u.bank b = s.bank b) : KeepsMemories s u :=
  fun b hw hn => by rw [hb]; exact ⟨hw, hn⟩

theorem KeepsMemories.trans {s t u : State} (hc : t.cfg = s.cfg) (h₁ : KeepsMemories s t) (h₂ : KeepsMemories t u) :
    KeepsMemories s u := fun b hw hn => by
  obtain ⟨hw', hn'⟩ := h₁ b hw hn
  rw [← hc] at hn' ⊢
  exact h₂ b hw' hn'

/-- A moved byte announces what it stores, raises no signal and keeps the memories (R109). -/
theorem moveByte_effect (c : ChannelIx) (a : Word) (dir : Direction) (s : State) :
    Announced s (moveByte c a dir s) ∧ KeepsMemories s (moveByte c a dir s) := by
  cases dir with
  | fromDevice =>
    obtain ⟨d, -, -, hd⟩ := devIn_state c s
    have hb : ∀ b, (devIn c s).2.bank b = s.bank b := fun b => by rw [hd]; cases b <;> rfl
    have hc : (devIn c s).2.cfg = s.cfg := by rw [hd]
    have hy : ∀ b o, (devIn c s).2.byteAt b o = s.byteAt b o := fun b o =>
      State.byteAt_congr (hb b) (by rw [hd]) o
    constructor
    · refine ⟨byteWriteEvents s.cfg a (devIn c s).1, ?_, ?_, fun b o h => ?_⟩
      · simp only [moveByte]
        rw [busWriteByte_eq, hd]
      · unfold byteWriteEvents
        split <;> simp [Event.isLevel]
      · simp only [moveByte] at h
        rw [busWriteByte_byteAt, hy, hc] at h
        split at h
        · rename_i hr
          refine ⟨a, ?_, hr.1, hr.2.symm⟩
          unfold byteWriteEvents
          rw [hr.1]
          cases b <;> simp [Bank.region]
        · exact absurd rfl h
    · intro b hw hn
      rw [← hb] at hw hn
      rw [← hc] at hn ⊢
      exact busWriteByte_memory a _ _ b hw hn
  | toDevice =>
    obtain ⟨d, -, -, hd⟩ := busReadByte_state a s
    constructor
    · refine ⟨[.devOut c (busReadByte a s).1], ?_, by simp [Event.isLevel], fun b o h => absurd ?_ h⟩
      · simp only [moveByte, devOut, State.emit]
        rw [hd]
        rfl
      · simp only [moveByte, devOut, State.emit_byteAt]
        rw [hd]
        cases b <;> rfl
    · refine KeepsMemories.of_unchanged (fun b => ?_)
      simp only [moveByte, devOut, State.emit_bank]
      rw [hd]
      cases b <;> rfl

/-- `xfer` announces what it stores, raises no signal and keeps the memories (R109). -/
theorem xfer_effect (c : ChannelIx) (a : Word) (n : Nat) (dir : Direction) (s : State) :
    Announced s (xfer c a n dir s) ∧ KeepsMemories s (xfer c a n dir s) := by
  induction n generalizing a s with
  | zero => exact ⟨.of_unchanged rfl (fun _ _ => rfl), .of_unchanged (fun _ => rfl)⟩
  | succ n ih =>
    have hc : (moveByte c a dir s).cfg = s.cfg := by rw [(moveByte_eq c a dir s).1]
    obtain ⟨h₁, h₂⟩ := moveByte_effect c a dir s
    obtain ⟨h₃, h₄⟩ := ih (a + 1#32) (moveByte c a dir s)
    exact ⟨h₁.trans hc h₃, h₂.trans hc h₄⟩

/-! ## Completion -/

/-- What a completion changes (R111): one control word, one flag, and the sink and the history if both enables are set. -/
theorem complete_eq (c : ChannelIx) (s : State) :
    complete c s = { s with
      ch := s.ch.set c { s.ch[c] with ctrl := clearBusy s.ch[c].ctrl }
      iflag := s.iflag.set c true
      pending := s.pending || (s.ie[c] && s.mie)
      events := completionEvents s c ++ s.events } := by
  unfold complete completionEvents
  split
  · rename_i h
    simp only [intSignal, State.setPending, State.emit, State.setFlag, State.setCtrl, h, Bool.or_true, List.append_assoc,
      List.cons_append, List.nil_append]
  · rename_i h
    simp only [State.setFlag, State.setCtrl, h, Bool.or_false, List.nil_append]

/-- Of what a completion records, the levels are the record of the sink's change. -/
theorem completionEvents_levels (s : State) (c : ChannelIx) :
    (completionEvents s c).filter Event.isLevel = irqRecord s.pending (s.pending || (s.ie[c] && s.mie)) := by
  unfold completionEvents
  split
  · rename_i h
    rw [h, Bool.or_true, List.filter_append, filter_irqRecord]
    simp [Event.isLevel]
  · rename_i h
    rw [Bool.not_eq_true] at h
    rw [h, Bool.or_false, irqRecord_self]
    rfl

/-- After a completion the history tells the sink's level, if it told it before (R111, R23). -/
theorem recordedLevel_completionEvents {s : State} {c : ChannelIx} {es : List Event} (h : recordedLevel es = s.pending) :
    recordedLevel (completionEvents s c ++ es) = (s.pending || (s.ie[c] && s.mie)) := by
  unfold completionEvents
  split
  · rename_i he
    rw [List.append_assoc, he, Bool.or_true]
    exact recordedLevel_irqRecord h
  · rename_i he
    rw [Bool.not_eq_true] at he
    rw [he, Bool.or_false]
    exact h

/-- Clearing the busy bit clears it and keeps every other bit (R111). -/
theorem clearBusy_getLsbD (ctrl : Word) (k : Nat) :
    (clearBusy ctrl).getLsbD k = (ctrl.getLsbD k && decide (k ≠ 24)) := by
  unfold clearBusy ctrlBusyMask
  by_cases hk : k < 32
  · interval_cases k <;> simp
  · rw [BitVec.getLsbD_of_ge _ _ (by omega), BitVec.getLsbD_of_ge _ _ (by omega), Bool.false_and]

@[simp] theorem ctrlBusy_clearBusy (ctrl : Word) : ctrlBusy (clearBusy ctrl) = false := by
  rw [ctrlBusy, clearBusy_getLsbD]
  simp

/-! ## The block-control register (R58) -/

theorem bcrSize_lt (bcr : Word) : bcrSize bcr < 2 ^ 16 := BitVec.isLt _

theorem bcrCount_lt (bcr : Word) : bcrCount bcr < 2 ^ 16 := BitVec.isLt _

/-- Replacing the count keeps the size. -/
@[simp] theorem bcrSize_bcrWithCount (bcr : Word) (count : Nat) : bcrSize (bcrWithCount bcr count) = bcrSize bcr := by
  have h : (bcrWithCount bcr count).extractLsb' 0 16 = bcr.extractLsb' 0 16 := by
    apply BitVec.eq_of_getLsbD_eq
    intro k hk
    rw [bcrWithCount, BitVec.getLsbD_extractLsb', BitVec.getLsbD_append]
    simp [hk]
  rw [bcrSize, h, bcrSize]

/-- A count of 16 bits is read back. -/
theorem bcrCount_bcrWithCount (bcr : Word) (count : Nat) (hc : count < 2 ^ 16) :
    bcrCount (bcrWithCount bcr count) = count := by
  have h : (bcrWithCount bcr count).extractLsb' 16 16 = BitVec.ofNat 16 count := by
    apply BitVec.eq_of_getLsbD_eq
    intro k hk
    rw [bcrWithCount, BitVec.getLsbD_extractLsb', BitVec.getLsbD_append]
    simp [hk]
  rw [bcrCount, h, BitVec.toNat_ofNat, Nat.mod_eq_of_lt hc]

/-! ## The units of work -/

/-- What a unit of work for channel `c` can do to a state, before it completes or not: the channel's address and block
control, the memories, the draws taken, the device port and the history. Every unit is such a change, then a completion or
not. -/
structure UnitBody (c : ChannelIx) (s u : State) : Prop where
  eq : u = { s with
    ch := s.ch.set c { addr := u.ch[c].addr, bcr := u.ch[c].bcr, ctrl := s.ch[c].ctrl }
    ram := u.ram, cram := u.cram, draws := u.draws, devInput := u.devInput, events := u.events }
  draws_le : s.draws ≤ u.draws
  announced : Announced s u
  keeps : KeepsMemories s u

theorem UnitBody.refl (c : ChannelIx) (s : State) : UnitBody c s s where
  eq := by
    have h : s.ch.set c { addr := s.ch[c].addr, bcr := s.ch[c].bcr, ctrl := s.ch[c].ctrl } = s.ch :=
      Vector.set_getElem_self c.isLt
    rw [h]
  draws_le := Nat.le_refl _
  announced := .of_unchanged rfl (fun _ _ => rfl)
  keeps := .of_unchanged (fun _ => rfl)

theorem moveBlock_body (c : ChannelIx) (dir : Direction) (s : State) : UnitBody c s (moveBlock c dir s) := by
  have h := xfer_eq c s.ch[c].addr (bcrSize s.ch[c].bcr) dir s
  obtain ⟨ha, hk⟩ := xfer_effect c s.ch[c].addr (bcrSize s.ch[c].bcr) dir s
  unfold moveBlock
  generalize xfer c s.ch[c].addr (bcrSize s.ch[c].bcr) dir s = x at h ha hk
  obtain ⟨h, hd⟩ := h
  refine ⟨?_, hd, ?_, ?_⟩
  · rw [h]
    simp [State.setAddr, State.setBcr]
  · obtain ⟨added, h₁, h₂, h₃⟩ := ha
    exact ⟨added, h₁, h₂, fun b o => by simpa using h₃ b o⟩
  · intro b hw hn
    simpa using hk b hw hn

/-- A unit that ends in a completion where its block-control register says so. -/
theorem completeIf_or (done : Word → Bool) (c : ChannelIx) (u : State) :
    completeIf done c u = u ∨ completeIf done c u = complete c u := by
  unfold completeIf
  split
  · exact .inr rfl
  · exact .inl rfl

theorem unitBurst_body (c : ChannelIx) (dir : Direction) (s : State) :
    ∃ u, UnitBody c s u ∧ (unitBurst c dir s = u ∨ unitBurst c dir s = complete c u) := by
  refine ⟨if bcrSize s.ch[c].bcr ≠ 0 ∧ bcrCount s.ch[c].bcr ≠ 0 then moveBlock c dir s else s, ?_,
    completeIf_or _ _ _⟩
  split
  · exact moveBlock_body c dir s
  · exact UnitBody.refl c s

theorem unitBlock_body (c : ChannelIx) (dir : Direction) (s : State) :
    ∃ u, UnitBody c s u ∧ (unitBlock c dir s = u ∨ unitBlock c dir s = complete c u) := by
  refine ⟨if bcrCount s.ch[c].bcr ≠ 0 then moveBlock c dir s else s, ?_, completeIf_or _ _ _⟩
  split
  · exact moveBlock_body c dir s
  · exact UnitBody.refl c s

/-- A list node, from the state its tag read leaves (R107). -/
theorem listNode_body (c : ChannelIx) (dir : Direction) (a tag : Word) (s : State) (d : Nat) (hd : s.draws ≤ d) :
    ∃ u, UnitBody c s u ∧ (listNode c dir a tag { s with draws := d } = u ∨
      listNode c dir a tag { s with draws := d } = complete c u) := by
  have h := xfer_eq c (a + 4#32) (payloadBytes (tagLen tag)) dir { s with draws := d }
  obtain ⟨ha, hk⟩ := xfer_effect c (a + 4#32) (payloadBytes (tagLen tag)) dir { s with draws := d }
  unfold listNode
  generalize xfer c (a + 4#32) (payloadBytes (tagLen tag)) dir { s with draws := d } = x at h ha hk
  obtain ⟨h, hd'⟩ := h
  have hb : ∀ b, ({ s with draws := d } : State).bank b = s.bank b := fun b => by cases b <;> rfl
  have hy : ∀ b o, ({ s with draws := d } : State).byteAt b o = s.byteAt b o := fun b o => by cases b <;> rfl
  refine ⟨x.setAddr c (nextAddress (tagNext tag)), ⟨?_, Nat.le_trans hd hd', ?_, ?_⟩, ?_⟩
  · rw [h]
    simp [State.setAddr]
  · obtain ⟨added, h₁, h₂, h₃⟩ := ha
    exact ⟨added, h₁, h₂, fun b o => by simpa only [State.setAddr_byteAt, hy] using h₃ b o⟩
  · intro b hw hn
    rw [← hb] at hw hn
    simpa using hk b hw hn
  · split
    · exact .inr rfl
    · exact .inl rfl

theorem unitList_body (c : ChannelIx) (dir : Direction) (s : State) :
    ∃ u, UnitBody c s u ∧ (unitList c dir s = u ∨ unitList c dir s = complete c u) := by
  obtain ⟨d, hd, -, h⟩ := dmaRead32_state s.ch[c].addr s
  have he : unitList c dir s =
      listNode c dir s.ch[c].addr (dmaRead32 s.ch[c].addr s).1 (dmaRead32 s.ch[c].addr s).2 := rfl
  rw [he, h]
  exact listNode_body c dir _ _ s d hd

/-! ## The arbiter -/

/-- The scan reads the priorities and who is eligible, and nothing else (R102, R103). -/
theorem arbitrate_congr {s t : State} (hp : t.prio = s.prio) (he : ∀ c, eligible t c = eligible s c)
    (cs : List ChannelIx) (best : Option ChannelIx) : arbitrate t cs best = arbitrate s cs best := by
  induction cs generalizing best with
  | nil => rfl
  | cons c cs ih => simp only [arbitrate, he, hp, ih]

theorem winner_congr {s t : State} (hp : t.prio = s.prio) (he : ∀ c, eligible t c = eligible s c) :
    winner t = winner s := arbitrate_congr hp he _ _

theorem arbitrate_eligible {s : State} {cs : List ChannelIx} {best : Option ChannelIx} {w : ChannelIx}
    (hb : ∀ x, best = some x → eligible s x = true) (h : arbitrate s cs best = some w) : eligible s w = true := by
  induction cs generalizing best with
  | nil => exact hb w h
  | cons c cs ih =>
    simp only [arbitrate] at h
    refine ih (fun x hx => ?_) h
    split at hx
    · rename_i hc
      split at hx
      · cases hx; exact hc
      · split at hx
        · cases hx; exact hc
        · cases hx; exact hb _ rfl
    · exact hb x hx

/-- A tick's winner is eligible (R103). -/
theorem winner_eligible {s : State} {w : ChannelIx} (h : winner s = some w) : eligible s w = true :=
  arbitrate_eligible (fun _ hx => by simp at hx) h

/-- A tick's winner is Active (R102). -/
theorem winner_busy {s : State} {w : ChannelIx} (h : winner s = some w) : ctrlBusy s.ch[w].ctrl = true := by
  have := winner_eligible h
  simp only [eligible, Bool.and_eq_true] at this
  exact this.1.2

end Sys2Proof.Machine
end

