-- ==== Sys2Proof/Laws/Exec.lean ====
section
/-! SUPPORT. Everything an operation can do, once: if `exec i s` answers a next state, that state is one of the effects
below. Later proofs go through this inversion and unfold no meaning. -/

namespace Sys2Proof.Machine

/-- The effects an operation that completes can have. -/
inductive Effect (s : State) (i : Instr) : State → Prop
  /-- Nothing but an answer and the draws taken: every read, every access that fails, a tick with no eligible channel. -/
  | answered (d : Nat) (ans : Option Answer) (hd : s.draws ≤ d) : Effect s i { s with draws := d, answer := ans }
  /-- A write into RAM or CRAM. -/
  | stored (b : Bank) (a : Word) (d : BusData) (hi : i.format = .bus) (hr : region s.cfg a d.width.bytes = b.region) :
      Effect s i (((s.storeBytes b (bankOffset s.cfg b a) d.bytes).emit (.invalidate a d.width.bytes)).answerWith
        (some (.write .ok)))
  /-- A write to the device set. -/
  | forwarded (a : Word) (d : BusData) (hi : i.format = .bus) :
      Effect s i ((s.emit (.devRegWrite a d)).answerWith (some (.write .ok)))
  | wroteAddr (c : ChannelIx) (v : Word) (hi : i = .wr32ChAddr c v) :
      Effect s i ((s.setAddr c v).answerWith (some (.write .ok)))
  | wroteBcr (c : ChannelIx) (v : Word) (hi : i = .wr32ChBcr c v) :
      Effect s i ((s.setBcr c v).answerWith (some (.write .ok)))
  | wroteCtrl (c : ChannelIx) (v : Word) (hi : i = .wr32ChCtrl c v) :
      Effect s i ((s.setCtrl c v).answerWith (some (.write .ok)))
  | wrotePriority (g : Fin 2) (v : Word) (hi : (g = 0 ∧ i = .wr32Dpcr v) ∨ (g = 1 ∧ i = .wr32Dpcr2 v)) :
      Effect s i ((writePriority g v s).answerWith (some (.write .ok)))
  | wroteInterrupt (g : Fin 2) (v : Word) (hi : (g = 0 ∧ i = .wr32Dicr v) ∨ (g = 1 ∧ i = .wr32Dicr2 v)) :
      Effect s i ((writeInterrupt g v s).answerWith (some (.write .ok)))
  /-- A unit of work that does not complete. -/
  | worked (c : ChannelIx) (u : State) (hw : winner s = some c) (hi : i = .tick ∨ ofEnvironment i = false)
      (hu : UnitBody c (s.answerWith none) u) : Effect s i u
  /-- A unit of work that completes. -/
  | completed (c : ChannelIx) (u : State) (hw : winner s = some c) (hi : i = .tick ∨ ofEnvironment i = false)
      (hu : UnitBody c (s.answerWith none) u) : Effect s i (complete c u)
  | wasReset (hi : i = .reset) : Effect s i ((resetState s).answerWith none)
  | acknowledged (hi : i = .intack) : Effect s i ((intAcknowledge s).answerWith none)

/-! ## The shared operations -/

theorem readBank_effect {s t : State} {b : Bank} {w : Width} {a : Word} (i : Instr)
    (h : readBank b w a s = .next t) : Effect s i t := by
  unfold readBank at h
  split at h
  · cases h
    exact .answered s.draws _ (Nat.le_refl _)
  · cases h

theorem writeBank_effect {s t : State} {b : Bank} {a : Word} {d : BusData} {i : Instr} (hi : i.format = .bus)
    (h : writeBank b a d s = .next t) : Effect s i t := by
  unfold writeBank at h
  split at h
  · rename_i hr
    cases h
    exact .stored b a d hi hr
  · cases h

theorem readDraw_effect {s t : State} {p : Bool} {st : Status} {w : Width} (i : Instr)
    (h : readDraw p st w s = .next t) : Effect s i t := by
  unfold readDraw at h
  split at h
  · cases h
    exact .answered (s.draws + 1) _ (Nat.le_succ _)
  · cases h

theorem writeDiscard_effect {s t : State} {p : Bool} {st : Status} (i : Instr)
    (h : writeDiscard p st s = .next t) : Effect s i t := by
  unfold writeDiscard at h
  split at h
  · cases h
    exact .answered s.draws _ (Nat.le_refl _)
  · cases h

theorem writeDevice_effect {s t : State} {a : Word} {d : BusData} {i : Instr} (hi : i.format = .bus)
    (h : writeDevice a d s = .next t) : Effect s i t := by
  unfold writeDevice at h
  split at h
  · cases h
    exact .forwarded a d hi
  · cases h

theorem readRegister_effect {s t : State} {v : Word} (i : Instr) (h : readRegister v s = .next t) : Effect s i t := by
  cases h
  exact .answered s.draws _ (Nat.le_refl _)

/-- A unit of work is a body, completed or not. -/
theorem unit_effect {s t : State} {c : ChannelIx} {i : Instr} (hw : winner s = some c)
    (hi : i = .tick ∨ ofEnvironment i = false)
    (h : ∃ u, UnitBody c (s.answerWith none) u ∧ (t = u ∨ t = complete c u)) : Effect s i t := by
  obtain ⟨u, hu, rfl | rfl⟩ := h
  · exact .worked c t hw hi hu
  · exact .completed c u hw hi hu

/-- What a selected row says (R63, R103). -/
theorem selects_iff {s : State} {c : ChannelIx} {sync : SyncMode} {dir : Direction} :
    selects s c sync dir = true ↔ winner s = some c ∧ ctrlSync s.ch[c].ctrl = sync ∧ ctrlDir s.ch[c].ctrl = dir := by
  simp only [selects, Bool.and_eq_true, decide_eq_true_eq, and_assoc]

theorem runTag_effect {s t : State} {c : ChannelIx} {tag : Word} {i : Instr} (hi : ofEnvironment i = false)
    (h : runTag c tag s = .next t) : Effect s i t := by
  unfold runTag at h
  split at h
  · rename_i hs
    obtain ⟨hw, -, -⟩ := selects_iff.mp hs
    obtain ⟨d, hd, -, hr⟩ := dmaRead32_state s.ch[c].addr (s.answerWith none)
    dsimp only at h
    split at h
    · rename_i he
      cases h
      rw [hr]
      exact unit_effect hw (.inr hi) (listNode_body c _ _ _ (s.answerWith none) d hd)
    · cases h
  · cases h

theorem execTick_effect {s t : State} (h : execTick s = .next t) : Effect s .tick t := by
  unfold execTick at h
  split at h
  · cases h
    exact .answered s.draws _ (Nat.le_refl _)
  · rename_i c hw
    unfold runUnit at h
    split at h
    · cases h
      exact unit_effect hw (.inl rfl) (unitBurst_body c _ (s.answerWith none))
    · cases h
      exact unit_effect hw (.inl rfl) (unitBlock_body c _ (s.answerWith none))
    · cases h
      exact unit_effect hw (.inl rfl) (unitList_body c _ (s.answerWith none))
    · cases h

/-! ## The inversion -/

/-- If an operation completes, the state it leaves is one of the effects. -/
theorem exec_effect {s t : State} {i : Instr} (h : exec i s = .next t) : Effect s i t := by
  cases i with
  | rd8DmaBadaccess a => exact readDraw_effect _ h
  | rd16DmaBadaccess a => exact readDraw_effect _ h
  | rd64DmaBadaccess a => exact readDraw_effect _ h
  | rd32DmaBadaccess a => exact readDraw_effect _ h
  | wr8DmaBadaccess a v => exact writeDiscard_effect _ h
  | wr16DmaBadaccess a v => exact writeDiscard_effect _ h
  | wr64DmaBadaccess a v => exact writeDiscard_effect _ h
  | wr32DmaBadaccess a v => exact writeDiscard_effect _ h
  | rd32ChAddr c => exact readRegister_effect _ h
  | wr32ChAddr c v => cases h; exact .wroteAddr c v rfl
  | rd32ChBcr c => exact readRegister_effect _ h
  | wr32ChBcr c v => cases h; exact .wroteBcr c v rfl
  | rd32ChCtrl c => exact readRegister_effect _ h
  | wr32ChCtrl c v => cases h; exact .wroteCtrl c v rfl
  | rd32DmaReservedSlot c => exact readDraw_effect (p := true) (st := .reject) (w := .w32) _ h
  | wr32DmaReservedSlot c v => exact writeDiscard_effect (p := true) (st := .reject) _ h
  | rd32Dpcr => exact readRegister_effect _ h
  | wr32Dpcr v => cases h; exact .wrotePriority 0 v (.inl ⟨rfl, rfl⟩)
  | rd32Dicr => exact readRegister_effect _ h
  | wr32Dicr v => cases h; exact .wroteInterrupt 0 v (.inl ⟨rfl, rfl⟩)
  | rd32Dpcr2 => exact readRegister_effect _ h
  | wr32Dpcr2 v => cases h; exact .wrotePriority 1 v (.inr ⟨rfl, rfl⟩)
  | rd32Dicr2 => exact readRegister_effect _ h
  | wr32Dicr2 v => cases h; exact .wroteInterrupt 1 v (.inr ⟨rfl, rfl⟩)
  | rd32DmaReservedHigh a => exact readDraw_effect _ h
  | wr32DmaReservedHigh a v => exact writeDiscard_effect _ h
  | rd8Ram a => exact readBank_effect _ h
  | rd16Ram a => exact readBank_effect _ h
  | rd32Ram a => exact readBank_effect _ h
  | rd64Ram a => exact readBank_effect _ h
  | wr8Ram a v => exact writeBank_effect rfl h
  | wr16Ram a v => exact writeBank_effect rfl h
  | wr32Ram a v => exact writeBank_effect rfl h
  | wr64Ram a v => exact writeBank_effect rfl h
  | rd8Cram a => exact readBank_effect _ h
  | rd16Cram a => exact readBank_effect _ h
  | rd32Cram a => exact readBank_effect _ h
  | rd64Cram a => exact readBank_effect _ h
  | wr8Cram a v => exact writeBank_effect rfl h
  | wr16Cram a v => exact writeBank_effect rfl h
  | wr32Cram a v => exact writeBank_effect rfl h
  | wr64Cram a v => exact writeBank_effect rfl h
  | rd8Dev a => exact readDraw_effect _ h
  | rd16Dev a => exact readDraw_effect _ h
  | rd32Dev a => exact readDraw_effect _ h
  | rd64Dev a => exact readDraw_effect _ h
  | wr8Dev a v => exact writeDevice_effect rfl h
  | wr16Dev a v => exact writeDevice_effect rfl h
  | wr32Dev a v => exact writeDevice_effect rfl h
  | wr64Dev a v => exact writeDevice_effect rfl h
  | rd8Unmapped a => exact readDraw_effect _ h
  | rd16Unmapped a => exact readDraw_effect _ h
  | rd32Unmapped a => exact readDraw_effect _ h
  | rd64Unmapped a => exact readDraw_effect _ h
  | wr8Unmapped a v => exact writeDiscard_effect _ h
  | wr16Unmapped a v => exact writeDiscard_effect _ h
  | wr32Unmapped a v => exact writeDiscard_effect _ h
  | wr64Unmapped a v => exact writeDiscard_effect _ h
  | tick => exact execTick_effect h
  | reset => cases h; exact .wasReset rfl
  | intack => cases h; exact .acknowledged rfl
  | unitBurst c dir =>
    simp only [exec, execUnitBurst] at h
    split at h
    · rename_i hs
      cases h
      exact unit_effect (selects_iff.mp hs).1 (.inr rfl) (unitBurst_body c dir (s.answerWith none))
    · cases h
  | unitBlock c dir =>
    simp only [exec, execUnitBlock] at h
    split at h
    · rename_i hs
      cases h
      exact unit_effect (selects_iff.mp hs).1 (.inr rfl) (unitBlock_body c dir (s.answerWith none))
    · cases h
  | unitList c dir =>
    simp only [exec, execUnitList] at h
    split at h
    · rename_i hs
      cases h
      exact unit_effect (selects_iff.mp hs).1 (.inr rfl) (unitList_body c dir (s.answerWith none))
    · cases h
  | unitReserved c dir => cases h
  | tagLast c len => exact runTag_effect rfl h
  | tagLink c len next =>
    simp only [exec, execTagLink] at h
    split at h
    · cases h
    · exact runTag_effect rfl h

/-- What a step is: the next input applied with the schedule shortened, or nothing (R43, R44). -/
theorem step_eq (s : State) : step s =
    match s.schedule with
    | [] => .next s
    | i :: rest => applyInput i { s with schedule := rest } := rfl

/-- An input that completes is an operation that completes, or a rejected call of the numbered interface (R99). -/
theorem applyInput_cases {s t : State} {x : Input} (h : applyInput x s = .next t) :
    (∃ i, exec i s = .next t) ∨ ∃ d ans, s.draws ≤ d ∧ t = { s with draws := d, answer := ans } := by
  cases x with
  | record bytes =>
    simp only [applyInput] at h
    split at h
    · exact .inl ⟨_, h⟩
    · cases h
  | numberedRead reg c =>
    simp only [applyInput, execNumberedRead] at h
    split at h
    · rename_i hc
      cases reg
      · exact .inl ⟨.rd32ChAddr ⟨c, hc⟩, h⟩
      · exact .inl ⟨.rd32ChBcr ⟨c, hc⟩, h⟩
      · exact .inl ⟨.rd32ChCtrl ⟨c, hc⟩, h⟩
    · cases h
      exact .inr ⟨s.draws + 1, _, Nat.le_succ _, rfl⟩
  | numberedWrite reg c v =>
    simp only [applyInput, execNumberedWrite] at h
    split at h
    · rename_i hc
      cases reg
      · exact .inl ⟨.wr32ChAddr ⟨c, hc⟩ v, h⟩
      · exact .inl ⟨.wr32ChBcr ⟨c, hc⟩ v, h⟩
      · exact .inl ⟨.wr32ChCtrl ⟨c, hc⟩ v, h⟩
    · cases h
      exact .inr ⟨s.draws, _, Nat.le_refl _, rfl⟩

/-- A step that completes: an empty schedule and no change, or the effect of one operation on the state with its input
taken off the schedule (a rejected call of the numbered interface has the effect `answered`, which says nothing of the
operation). -/
theorem step_effect {s t : State} (h : step s = .next t) :
    (s.schedule = [] ∧ t = s) ∨ ∃ x rest i, s.schedule = x :: rest ∧ Effect { s with schedule := rest } i t := by
  rw [step_eq] at h
  split at h
  · rename_i he
    cases h
    exact .inl ⟨he, rfl⟩
  · rename_i x rest he
    refine .inr ⟨x, rest, ?_⟩
    rcases applyInput_cases h with ⟨i, hi⟩ | ⟨d, ans, hd, rfl⟩
    · exact ⟨i, he, exec_effect hi⟩
    · exact ⟨.tick, he, .answered d ans hd⟩

end Sys2Proof.Machine
end

