-- ==== Sys2Proof/Tests/Slice0.lean ====
section
/-! SUPPORT. Tests of this model: ill-formed terms, records written out from the spec's encodings, single steps from the
spec's worked examples, and a witness for the hypotheses of each statement. Expected values are the spec's own. -/

set_option maxRecDepth 20000

namespace Sys2Proof.Tests

open Sys2Proof.Machine

/-! ## Well-formedness: a term for each check that it refuses -/

/-- R97, R98: a 32-bit access at a 4-aligned address is no BADACCESS; a byte outside the window is none. -/
theorem test_wf_bad_access :
    WellFormed Config.vectorDefault (.rd32DmaBadaccess 0x1F801104#32) = false ∧
    WellFormed Config.vectorDefault (.rd8DmaBadaccess 0x1F801200#32) = false ∧
    WellFormed Config.vectorDefault (.wr64DmaBadaccess 0x1F8011FC#32 0#64) = false ∧
    WellFormed Config.vectorDefault (.wr32DmaBadaccess 0x1F801001#32 0#32) = true := by
  decide

/-- R95, R96: below `0x110`, misaligned, or past the window is no RESERVED.HIGH. -/
theorem test_wf_reserved_high :
    WellFormed Config.vectorDefault (.rd32DmaReservedHigh 0x1F80110C#32) = false ∧
    WellFormed Config.vectorDefault (.rd32DmaReservedHigh 0x1F801112#32) = false ∧
    WellFormed Config.vectorDefault (.wr32DmaReservedHigh 0x1F801200#32 0#32) = false ∧
    WellFormed Config.vectorDefault (.wr32DmaReservedHigh 0x1F8011FC#32 0#32) = true := by
  decide

/-- R33: an access is not of a region it leaves by one byte. -/
theorem test_wf_region :
    WellFormed Config.vectorDefault (.rd16Ram 0x001FFFFF#32) = false ∧
    WellFormed Config.vectorDefault (.wr64Cram 0x1C1FFFF9#32 0#64) = false ∧
    WellFormed Config.vectorDefault (.rd32Dev 0x1F800FFE#32) = false ∧
    WellFormed Config.vectorDefault (.wr8Unmapped 0x001FFFFF#32 0#8) = false := by
  decide

/-- R62: the terminator is no link. -/
theorem test_wf_tag_link : WellFormed Config.vectorDefault (.tagLink 2 1 0xFFFFFF#24) = false := by decide

/-- R7: overlapping regions, a region past `0xFFFF_FFFF`, an empty region, a window base that is no multiple of `0x200`. -/
theorem test_wf_config :
    Config.wf { Config.vectorDefault with cramBase := 0x001FFFFF#32 } = false ∧
    Config.wf { Config.vectorDefault with devBase := 0xFFFFF001#32 } = false ∧
    Config.wf { Config.vectorDefault with ramSize := 0 } = false ∧
    Config.wf { Config.vectorDefault with dmaBase := 0x1F801100#32 } = false := by
  decide

/-! ## Decoding: every constructor, by a record written out -/

/-- R97, R98: the eight rows of rejected widths and alignments; a byte of DICR, a halfword of CH2_CTRL, a word at an
odd address, eight bytes at the end of the window. -/
theorem test_decode_bad_access :
    decode Config.vectorDefault [0x04, 0x11, 0x80, 0x1F, 0x00] = .ok (.rd8DmaBadaccess 0x1F801104#32) ∧
    decode Config.vectorDefault [0x28, 0x10, 0x80, 0x1F, 0x02] = .ok (.rd16DmaBadaccess 0x1F801028#32) ∧
    decode Config.vectorDefault [0x01, 0x10, 0x80, 0x1F, 0x04] = .ok (.rd32DmaBadaccess 0x1F801001#32) ∧
    decode Config.vectorDefault [0xF8, 0x11, 0x80, 0x1F, 0x06] = .ok (.rd64DmaBadaccess 0x1F8011F8#32) ∧
    decode Config.vectorDefault [0x04, 0x11, 0x80, 0x1F, 0x01, 0x5A] = .ok (.wr8DmaBadaccess 0x1F801104#32 0x5A#8) ∧
    decode Config.vectorDefault [0x28, 0x10, 0x80, 0x1F, 0x03, 0xEF, 0xBE] = .ok (.wr16DmaBadaccess 0x1F801028#32 0xBEEF#16) ∧
    decode Config.vectorDefault [0x01, 0x10, 0x80, 0x1F, 0x05, 0x11, 0x22, 0x33, 0x44] = .ok (.wr32DmaBadaccess 0x1F801001#32 0x44332211#32) ∧
    decode Config.vectorDefault [0xF8, 0x11, 0x80, 0x1F, 0x07, 0x01, 0x02, 0x03, 0x04, 0x05, 0x06, 0x07, 0x08] = .ok (.wr64DmaBadaccess 0x1F8011F8#32 0x0807060504030201#64) := by
  decide

/-- R54, R81 to R86, R95, R96: the channel registers at `DMA_BASE + 0x10*c`, for channels 2, 15 and 0. -/
theorem test_decode_channel_registers :
    decode Config.vectorDefault [0x20, 0x10, 0x80, 0x1F, 0x04] = .ok (.rd32ChAddr 2) ∧
    decode Config.vectorDefault [0xF0, 0x10, 0x80, 0x1F, 0x05, 0xFC, 0xFF, 0xFF, 0xFF] = .ok (.wr32ChAddr 15 0xFFFFFFFC#32) ∧
    decode Config.vectorDefault [0x24, 0x10, 0x80, 0x1F, 0x04] = .ok (.rd32ChBcr 2) ∧
    decode Config.vectorDefault [0x24, 0x10, 0x80, 0x1F, 0x05, 0x04, 0x00, 0x04, 0x00] = .ok (.wr32ChBcr 2 0x00040004#32) ∧
    decode Config.vectorDefault [0xF8, 0x10, 0x80, 0x1F, 0x04] = .ok (.rd32ChCtrl 15) ∧
    decode Config.vectorDefault [0x28, 0x10, 0x80, 0x1F, 0x05, 0x00, 0x00, 0x00, 0x01] = .ok (.wr32ChCtrl 2 0x01000000#32) ∧
    decode Config.vectorDefault [0x0C, 0x10, 0x80, 0x1F, 0x04] = .ok (.rd32DmaReservedSlot 0) ∧
    decode Config.vectorDefault [0xFC, 0x10, 0x80, 0x1F, 0x05, 0x78, 0x56, 0x34, 0x12] = .ok (.wr32DmaReservedSlot 15 0x12345678#32) := by
  decide

/-- R54, R87 to R96: the packed registers and both ends of the reserved range. -/
theorem test_decode_packed_registers :
    decode Config.vectorDefault [0x00, 0x11, 0x80, 0x1F, 0x04] = .ok .rd32Dpcr ∧
    decode Config.vectorDefault [0x00, 0x11, 0x80, 0x1F, 0x05, 0x00, 0x09, 0x00, 0x00] = .ok (.wr32Dpcr 0x00000900#32) ∧
    decode Config.vectorDefault [0x04, 0x11, 0x80, 0x1F, 0x04] = .ok .rd32Dicr ∧
    decode Config.vectorDefault [0x04, 0x11, 0x80, 0x1F, 0x05, 0x00, 0x80, 0x04, 0x04] = .ok (.wr32Dicr 0x04048000#32) ∧
    decode Config.vectorDefault [0x08, 0x11, 0x80, 0x1F, 0x04] = .ok .rd32Dpcr2 ∧
    decode Config.vectorDefault [0x08, 0x11, 0x80, 0x1F, 0x05, 0x09, 0x00, 0x00, 0x00] = .ok (.wr32Dpcr2 0x00000009#32) ∧
    decode Config.vectorDefault [0x0C, 0x11, 0x80, 0x1F, 0x04] = .ok .rd32Dicr2 ∧
    decode Config.vectorDefault [0x0C, 0x11, 0x80, 0x1F, 0x05, 0x00, 0x00, 0x00, 0xFF] = .ok (.wr32Dicr2 0xFF000000#32) ∧
    decode Config.vectorDefault [0x10, 0x11, 0x80, 0x1F, 0x04] = .ok (.rd32DmaReservedHigh 0x1F801110#32) ∧
    decode Config.vectorDefault [0xFC, 0x11, 0x80, 0x1F, 0x05, 0x78, 0x56, 0x34, 0x12] = .ok (.wr32DmaReservedHigh 0x1F8011FC#32 0x12345678#32) := by
  decide

/-- R71, R72: RAM, an access of each width whose last byte is the last byte of RAM, and one at its start. -/
theorem test_decode_ram :
    decode Config.vectorDefault [0xFF, 0xFF, 0x1F, 0x00, 0x00] = .ok (.rd8Ram 0x001FFFFF#32) ∧
    decode Config.vectorDefault [0xFE, 0xFF, 0x1F, 0x00, 0x02] = .ok (.rd16Ram 0x001FFFFE#32) ∧
    decode Config.vectorDefault [0x00, 0x00, 0x00, 0x00, 0x04] = .ok (.rd32Ram 0x00000000#32) ∧
    decode Config.vectorDefault [0xF8, 0xFF, 0x1F, 0x00, 0x06] = .ok (.rd64Ram 0x001FFFF8#32) ∧
    decode Config.vectorDefault [0xFF, 0xFF, 0x1F, 0x00, 0x01, 0x5A] = .ok (.wr8Ram 0x001FFFFF#32 0x5A#8) ∧
    decode Config.vectorDefault [0xFE, 0xFF, 0x1F, 0x00, 0x03, 0xEF, 0xBE] = .ok (.wr16Ram 0x001FFFFE#32 0xBEEF#16) ∧
    decode Config.vectorDefault [0x00, 0x00, 0x00, 0x00, 0x05, 0x11, 0x22, 0x33, 0x44] = .ok (.wr32Ram 0x00000000#32 0x44332211#32) ∧
    decode Config.vectorDefault [0xF8, 0xFF, 0x1F, 0x00, 0x07, 0x01, 0x02, 0x03, 0x04, 0x05, 0x06, 0x07, 0x08] = .ok (.wr64Ram 0x001FFFF8#32 0x0807060504030201#64) := by
  decide

/-- R73, R74: CRAM, from its first byte to its last. -/
theorem test_decode_cram :
    decode Config.vectorDefault [0xFF, 0xFF, 0x1F, 0x1C, 0x00] = .ok (.rd8Cram 0x1C1FFFFF#32) ∧
    decode Config.vectorDefault [0x01, 0x00, 0x00, 0x1C, 0x02] = .ok (.rd16Cram 0x1C000001#32) ∧
    decode Config.vectorDefault [0xFC, 0xFF, 0x1F, 0x1C, 0x04] = .ok (.rd32Cram 0x1C1FFFFC#32) ∧
    decode Config.vectorDefault [0x00, 0x00, 0x00, 0x1C, 0x06] = .ok (.rd64Cram 0x1C000000#32) ∧
    decode Config.vectorDefault [0xFF, 0xFF, 0x1F, 0x1C, 0x01, 0x5A] = .ok (.wr8Cram 0x1C1FFFFF#32 0x5A#8) ∧
    decode Config.vectorDefault [0x01, 0x00, 0x00, 0x1C, 0x03, 0xEF, 0xBE] = .ok (.wr16Cram 0x1C000001#32 0xBEEF#16) ∧
    decode Config.vectorDefault [0xFC, 0xFF, 0x1F, 0x1C, 0x05, 0x11, 0x22, 0x33, 0x44] = .ok (.wr32Cram 0x1C1FFFFC#32 0x44332211#32) ∧
    decode Config.vectorDefault [0x00, 0x00, 0x00, 0x1C, 0x07, 0x01, 0x02, 0x03, 0x04, 0x05, 0x06, 0x07, 0x08] = .ok (.wr64Cram 0x1C000000#32 0x0807060504030201#64) := by
  decide

/-- R75, R76: DEV; a word at its end. -/
theorem test_decode_dev :
    decode Config.vectorDefault [0x40, 0x00, 0x80, 0x1F, 0x00] = .ok (.rd8Dev 0x1F800040#32) ∧
    decode Config.vectorDefault [0xFE, 0x0F, 0x80, 0x1F, 0x02] = .ok (.rd16Dev 0x1F800FFE#32) ∧
    decode Config.vectorDefault [0xFC, 0x0F, 0x80, 0x1F, 0x04] = .ok (.rd32Dev 0x1F800FFC#32) ∧
    decode Config.vectorDefault [0x00, 0x00, 0x80, 0x1F, 0x06] = .ok (.rd64Dev 0x1F800000#32) ∧
    decode Config.vectorDefault [0x40, 0x00, 0x80, 0x1F, 0x01, 0x5A] = .ok (.wr8Dev 0x1F800040#32 0x5A#8) ∧
    decode Config.vectorDefault [0xFE, 0x0F, 0x80, 0x1F, 0x03, 0xEF, 0xBE] = .ok (.wr16Dev 0x1F800FFE#32 0xBEEF#16) ∧
    decode Config.vectorDefault [0xFC, 0x0F, 0x80, 0x1F, 0x05, 0x11, 0x22, 0x33, 0x44] = .ok (.wr32Dev 0x1F800FFC#32 0x44332211#32) ∧
    decode Config.vectorDefault [0x00, 0x00, 0x80, 0x1F, 0x07, 0x01, 0x02, 0x03, 0x04, 0x05, 0x06, 0x07, 0x08] = .ok (.wr64Dev 0x1F800000#32 0x0807060504030201#64) := by
  decide

/-- R77, R78: no region; one byte past RAM, across the end of CRAM, across DEV and the DMA window, and past the end of
RAM by four bytes. -/
theorem test_decode_unmapped :
    decode Config.vectorDefault [0x00, 0x00, 0x20, 0x00, 0x00] = .ok (.rd8Unmapped 0x00200000#32) ∧
    decode Config.vectorDefault [0xFF, 0xFF, 0x1F, 0x1C, 0x02] = .ok (.rd16Unmapped 0x1C1FFFFF#32) ∧
    decode Config.vectorDefault [0xFE, 0x0F, 0x80, 0x1F, 0x04] = .ok (.rd32Unmapped 0x1F800FFE#32) ∧
    decode Config.vectorDefault [0xFC, 0xFF, 0x1F, 0x00, 0x06] = .ok (.rd64Unmapped 0x001FFFFC#32) ∧
    decode Config.vectorDefault [0x00, 0x00, 0x20, 0x00, 0x01, 0x5A] = .ok (.wr8Unmapped 0x00200000#32 0x5A#8) ∧
    decode Config.vectorDefault [0xFF, 0xFF, 0x1F, 0x1C, 0x03, 0xEF, 0xBE] = .ok (.wr16Unmapped 0x1C1FFFFF#32 0xBEEF#16) ∧
    decode Config.vectorDefault [0xFE, 0x0F, 0x80, 0x1F, 0x05, 0x11, 0x22, 0x33, 0x44] = .ok (.wr32Unmapped 0x1F800FFE#32 0x44332211#32) ∧
    decode Config.vectorDefault [0xFC, 0xFF, 0x1F, 0x00, 0x07, 0x01, 0x02, 0x03, 0x04, 0x05, 0x06, 0x07, 0x08] = .ok (.wr64Unmapped 0x001FFFFC#32 0x0807060504030201#64) := by
  decide

/-- R33: bytes past `0xFFFF_FFFF` do not wrap into RAM, and an access that leaves the DMA window is unmapped. -/
theorem test_decode_no_wrap :
    decode Config.vectorDefault [0xFE, 0xFF, 0xFF, 0xFF, 0x04] = .ok (.rd32Unmapped 0xFFFFFFFE#32) ∧
    decode Config.vectorDefault [0xFE, 0x11, 0x80, 0x1F, 0x04] = .ok (.rd32Unmapped 0x1F8011FE#32) ∧
    decode Config.vectorDefault [0xFF, 0xFF, 0xFF, 0x1B, 0x00] = .ok (.rd8Unmapped 0x1BFFFFFF#32) := by
  decide

/-- R51: the three PORT operations (numbers 0, 1, 2 of the packing, log entry 6). -/
theorem test_decode_port :
    decode Config.vectorDefault [0x00, 0x00, 0x00, 0x00, 0x08] = .ok .tick ∧
    decode Config.vectorDefault [0x01, 0x00, 0x00, 0x00, 0x08] = .ok .reset ∧
    decode Config.vectorDefault [0x02, 0x00, 0x00, 0x00, 0x08] = .ok .intack := by
  decide

/-- R59, R63: the composed control words of R59 select their unit and direction; the busy bit and the unknown bits
select nothing. -/
theorem test_decode_unit :
    decode Config.vectorDefault [0x00, 0x00, 0x00, 0x01, 0x10, 0x02] = .ok (.unitBurst 2 .fromDevice) ∧
    decode Config.vectorDefault [0x01, 0x02, 0x00, 0x01, 0x10, 0x0F] = .ok (.unitBlock 15 .toDevice) ∧
    decode Config.vectorDefault [0x01, 0x04, 0x00, 0x01, 0x10, 0x00] = .ok (.unitList 0 .toDevice) ∧
    decode Config.vectorDefault [0x00, 0x06, 0x00, 0x01, 0x10, 0x05] = .ok (.unitReserved 5 .fromDevice) ∧
    decode Config.vectorDefault [0x01, 0x02, 0x00, 0x00, 0x10, 0x07] = .ok (.unitBlock 7 .toDevice) ∧
    decode Config.vectorDefault [0xFE, 0xF9, 0xFF, 0xFE, 0x10, 0x07] = .ok (.unitBurst 7 .fromDevice) := by
  decide

/-- R62: only `0xFF_FFFF` terminates; `0x80_0000` is an ordinary address. -/
theorem test_decode_tag :
    decode Config.vectorDefault [0xFF, 0xFF, 0xFF, 0x01, 0x18, 0x02] = .ok (.tagLast 2 0x01) ∧
    decode Config.vectorDefault [0x00, 0x20, 0x00, 0x02, 0x18, 0x02] = .ok (.tagLink 2 0x02 0x002000) ∧
    decode Config.vectorDefault [0x00, 0x00, 0x80, 0x00, 0x18, 0x0F] = .ok (.tagLink 15 0x00 0x800000) := by
  decide

/-- Records that are no operation are rejected by name (log entry 6). -/
theorem test_decode_rejects :
    decode Config.vectorDefault [0x00, 0x00, 0x00, 0x00] = .error .truncated ∧
    decode Config.vectorDefault [0x00, 0x11, 0x80, 0x1F, 0x05, 0x00] = .error .truncated ∧
    decode Config.vectorDefault [0x00, 0x00, 0x00, 0x00, 0x00, 0x00] = .error .trailingBytes ∧
    decode Config.vectorDefault [0x00, 0x00, 0x00, 0x00, 0x20] = .error .unknownFormat ∧
    decode Config.vectorDefault [0x00, 0x00, 0x00, 0x00, 0x09] = .error .reservedHeaderBits ∧
    decode Config.vectorDefault [0x03, 0x00, 0x00, 0x00, 0x08] = .error .unknownPort ∧
    decode Config.vectorDefault [0x00, 0x02, 0x00, 0x01, 0x10, 0x10] = .error .channelOutOfRange := by
  decide

/-! ## Single steps -/

/-- The state after reset with the bytes `bytes` in RAM from address `a`. -/
def ramFrom (a : Nat) (bytes : List Byte) : State := State.reset.storeBytes .ram a bytes

/-- The state with channel `c` holding the three registers, at priority `p`, enabled. -/
def channelSet (s : State) (c : ChannelIx) (addr bcr ctrl : Word) (p : BitVec 3) : State :=
  { s with ch := s.ch.set c { addr := addr, bcr := bcr, ctrl := ctrl }, prio := s.prio.set c p, en := s.en.set c true }

/-- The outcome is a next state that passes the check. -/
def passes (o : Host.Outcome State Fault Refusal) (check : State → Bool) : Bool :=
  match o with
  | .next t => check t
  | .fault _ => false
  | .refused _ => false

/-- The answer is a read's with this status; its value is not looked at. -/
def answeredRead (st : Status) (t : State) : Bool :=
  match t.answer with
  | some (.read st' _) => decide (st' = st)
  | some (.write _) => false
  | none => false

/-- R71's example: bytes `11 22 33 44` at `0x100` read as `0x4433_2211`. -/
theorem test_rd32_ram : passes (exec (.rd32Ram 0x100#32) (ramFrom 0x100 [0x11, 0x22, 0x33, 0x44]))
    (fun t => decide (t.answer = some (.read .ok (.b32 0x44332211#32)))) = true := by decide

/-- V1: `RD16 0x101` reads `0x3322`. -/
theorem test_rd16_ram : passes (exec (.rd16Ram 0x101#32) (ramFrom 0x100 [0x11, 0x22, 0x33, 0x44]))
    (fun t => decide (t.answer = some (.read .ok (.b16 0x3322#16)))) = true := by decide

/-- R72's example: `WR16 0x101, 0xBEEF` stores `EF` at `0x101` and `BE` at `0x102`, and emits one Invalidate. -/
theorem test_wr16_ram : passes (exec (.wr16Ram 0x101#32 0xBEEF#16) State.reset)
    (fun t => decide (t.ram = [(0x101, 0xEF#8), (0x102, 0xBE#8)] ∧ t.cram = [] ∧
      t.events = [.invalidate 0x101#32 2] ∧ t.answer = some (.write .ok))) = true := by decide

/-- R72: the event is emitted even if the bytes written equal those there. -/
theorem test_wr8_ram_same : passes (exec (.wr8Ram 0x100#32 0x11#8) (ramFrom 0x100 [0x11]))
    (fun t => decide (t.ram = [(0x100, 0x11#8)] ∧ t.events = [.invalidate 0x100#32 1])) = true := by decide

/-- R73's example: `WR64 0x1C00_0000, 0x0807_0605_0403_0201` puts `08` at the highest address, in CRAM only. -/
theorem test_wr64_cram : passes (exec (.wr64Cram 0x1C000000#32 0x0807060504030201#64) State.reset)
    (fun t => decide (t.cram = [(0, 0x01#8), (1, 0x02#8), (2, 0x03#8), (3, 0x04#8), (4, 0x05#8), (5, 0x06#8),
      (6, 0x07#8), (7, 0x08#8)] ∧ t.ram = [])) = true := by decide

/-- V2: `RD32 0x1C00_0002` reads `0x0605_0403`. -/
theorem test_rd32_cram : passes (exec (.rd32Cram 0x1C000002#32)
      (State.reset.storeBytes .cram 0 [0x01, 0x02, 0x03, 0x04, 0x05, 0x06, 0x07, 0x08]))
    (fun t => decide (t.answer = some (.read .ok (.b32 0x06050403#32)))) = true := by decide

/-- R75's example: `RD32 0x1F80_0010 -> OK, *`, one draw. -/
theorem test_rd32_dev : passes (exec (.rd32Dev 0x1F800010#32) State.reset)
    (fun t => answeredRead .ok t && decide (t.draws = 1)) = true := by decide

/-- R76's example: `WR8 0x1F80_0040, 0x01` is the event `DevRegWrite(8, 0x1F80_0040, 0x01)`. -/
theorem test_wr8_dev : passes (exec (.wr8Dev 0x1F800040#32 0x01#8) State.reset)
    (fun t => decide (t.events = [.devRegWrite 0x1F800040#32 (.b8 0x01#8)] ∧ t.answer = some (.write .ok))) = true := by
  decide

/-- R77's example: `RD32 0x0FFF_0000 -> UNMAPPED, *`. -/
theorem test_rd32_unmapped : passes (exec (.rd32Unmapped 0x0FFF0000#32) State.reset) (answeredRead .unmapped) = true := by
  decide

/-- R78's example: `WR64 0x001F_FFFC, 0` returns `UNMAPPED` and leaves RAM unchanged. -/
theorem test_wr64_unmapped : passes (exec (.wr64Unmapped 0x001FFFFC#32 0#64) State.reset)
    (fun t => decide (t.ram = [] ∧ t.events = [] ∧ t.answer = some (.write .unmapped))) = true := by decide

/-- R97's example: `RD8 0x1F80_1104 -> REJECT, *`. -/
theorem test_rd8_bad_access : passes (exec (.rd8DmaBadaccess 0x1F801104#32) State.reset) (answeredRead .reject) = true := by
  decide

/-- R98's example: `WR16 0x1F80_1028, 0x0100 -> REJECT`; channel 2 is not started. -/
theorem test_wr16_bad_access : passes (exec (.wr16DmaBadaccess 0x1F801028#32 0x0100#16) State.reset)
    (fun t => decide (t.ch = State.reset.ch ∧ t.answer = some (.write .reject))) = true := by decide

/-- R95's and R96's examples. -/
theorem test_reserved : passes (exec (.rd32DmaReservedSlot 2) State.reset) (answeredRead .reject) = true ∧
    passes (exec (.wr32DmaReservedHigh 0x1F801110#32 0x12345678#32) State.reset)
      (fun t => decide (t.answer = some (.write .reject))) = true := by decide

/-- R82's example: `WR32 0x1F80_10F0, 0xFFFF_FFFC` sets channel 15's address, all 32 bits, and no other channel's. -/
theorem test_wr32_ch_addr : passes (exec (.wr32ChAddr 15 0xFFFFFFFC#32) State.reset)
    (fun t => decide (t.ch[15].addr = 0xFFFFFFFC#32 ∧ t.ch[14].addr = 0#32 ∧ t.ch[15].bcr = 0#32)) = true := by decide

/-- R83's example: after one tick of the scenario `CH2_BCR` reads `0x0003_0004`. -/
theorem test_rd32_ch_bcr :
    passes (exec (.rd32ChBcr 2) (channelSet State.reset 2 0x1004#32 0x00030004#32 0x01000000#32 1))
      (fun t => decide (t.answer = some (.read .ok (.b32 0x00030004#32)))) = true := by decide

/-- R86: starting a channel moves no data, sets no flag, raises no signal. -/
theorem test_wr32_ch_ctrl : passes (exec (.wr32ChCtrl 2 0xFFFFFFFF#32) State.reset)
    (fun t => decide (t.ch[2].ctrl = 0xFFFFFFFF#32 ∧ t.iflag = State.reset.iflag ∧ t.pending = false ∧ t.events = [])) =
      true := by decide

/-- R88's example: `WR32 DPCR, 0x0000_BD00` gives channel 2 priority 5 enabled and channel 3 priority 3 enabled. -/
theorem test_wr32_dpcr : passes (exec (.wr32Dpcr 0x0000BD00#32) State.reset)
    (fun t => decide (t.prio[2] = 5#3 ∧ t.en[2] = true ∧ t.prio[3] = 3#3 ∧ t.en[3] = true ∧ t.en[1] = false ∧
      t.prio[4] = 0#3)) = true := by decide

/-- R89's example: `prio[15] = 7`, `en[15] = 1` reads `0xF000_0000` in DPCR2, and 0 in DPCR. -/
theorem test_rd32_dpcr2 :
    passes (exec .rd32Dpcr2 (channelSet State.reset 15 0#32 0#32 0#32 7))
      (fun t => decide (t.answer = some (.read .ok (.b32 0xF0000000#32)))) = true ∧
    passes (exec .rd32Dpcr (channelSet State.reset 15 0#32 0#32 0#32 7))
      (fun t => decide (t.answer = some (.read .ok (.b32 0#32)))) = true := by decide

/-- R90's example: `WR32 DPCR2, 0x0000_0009` gives channel 8 priority 1 enabled. -/
theorem test_wr32_dpcr2 : passes (exec (.wr32Dpcr2 0x00000009#32) State.reset)
    (fun t => decide (t.prio[8] = 1#3 ∧ t.en[8] = true ∧ t.en[0] = false)) = true := by decide

/-- R91's example: `if[2] = 1` and all else 0 reads `0x0400_0000`. -/
theorem test_rd32_dicr : passes (exec .rd32Dicr (State.reset.setFlag 2))
    (fun t => decide (t.answer = some (.read .ok (.b32 0x04000000#32)))) = true := by decide

/-- R92's example: with `if[2] = 1`, `WR32 DICR, 0x0404_8000` clears `if[2]`, sets `ie[2]` and `mie`, raises nothing. -/
theorem test_wr32_dicr : passes (exec (.wr32Dicr 0x04048000#32) (State.reset.setFlag 2))
    (fun t => decide (t.iflag[2] = false ∧ t.ie[2] = true ∧ t.ie[3] = false ∧ t.mie = true ∧ t.pending = false)) = true := by
  decide

/-- R92: a flag bit written 0 leaves the flag as it is; a 1 where the flag is 0 sets nothing. -/
theorem test_wr32_dicr_keeps : passes (exec (.wr32Dicr 0xFB000000#32) (State.reset.setFlag 2))
    (fun t => decide (t.iflag[2] = true ∧ t.iflag[3] = false ∧ t.mie = false)) = true := by decide

/-- R93's example: `if[8] = 1`, `ie[9] = 1` reads `0x0102_0000` in DICR2; `mie` is not visible there. -/
theorem test_rd32_dicr2 : passes (exec .rd32Dicr2 { State.reset.setFlag 8 with ie := State.reset.ie.set 9 true, mie := true })
    (fun t => decide (t.answer = some (.read .ok (.b32 0x01020000#32)))) = true := by decide

/-- R94: bit 15 of DICR2 does not touch `mie`; the flags of channels 0..7 stay. -/
theorem test_wr32_dicr2 : passes (exec (.wr32Dicr2 0xFF008000#32) ((State.reset.setFlag 2).setFlag 15))
    (fun t => decide (t.mie = false ∧ t.iflag[15] = false ∧ t.iflag[2] = true)) = true := by decide

/-- The state of scenario S1 before its first tick. -/
def scenario : State :=
  { channelSet State.reset 2 0x1000#32 0x00040004#32 0x01000000#32 1 with
    devInput := State.reset.devInput.set 2 [0xA0, 0xA1, 0xA2, 0xA3, 0xB0] }

/-- S1: after one tick `addr = 0x1004`, `bcr = 0x0003_0004`, the device's bytes are in RAM, four Invalidates, still Active. -/
theorem test_tick_burst : passes (exec .tick scenario)
    (fun t => decide (t.ch[2] = ⟨0x1004#32, 0x00030004#32, 0x01000000#32⟩ ∧ t.iflag[2] = false ∧
      t.ram = [(0x1000, 0xA0#8), (0x1001, 0xA1#8), (0x1002, 0xA2#8), (0x1003, 0xA3#8)] ∧
      t.events.length = 4 ∧ t.devInput[2] = [0xB0#8])) = true := by decide

/-- S1: the last block completes; the flag is set, no signal is raised with the enables clear. -/
theorem test_unit_burst_completes :
    passes (exec (.unitBurst 2 .toDevice)
      (channelSet (ramFrom 0x1000 [0x11, 0x22]) 2 0x1000#32 0x00010002#32 0x01000001#32 1))
      (fun t => decide (t.ch[2] = ⟨0x1002#32, 0x00000002#32, 0x00000001#32⟩ ∧ t.iflag[2] = true ∧ t.pending = false ∧
        t.events = [.devOut 2 0x22#8, .devOut 2 0x11#8])) = true := by decide

/-- S2: the priority-5 channel is served although the other was started first and its index is no tie-breaker. -/
theorem test_unit_block_priority :
    passes (exec (.unitBlock 2 .toDevice)
      (channelSet (channelSet (ramFrom 0x2000 [0x11, 0x22]) 3 0x3000#32 0x00010002#32 0x01000201#32 3)
        2 0x2000#32 0x00020002#32 0x01000201#32 5))
      (fun t => decide (t.ch[2] = ⟨0x2002#32, 0x00010002#32, 0x01000201#32⟩ ∧ t.ch[3].bcr = 0x00010002#32)) = true := by
  decide

/-- R107's example: tag `0x0200_2000` at `0x1000`, to device: 8 bytes go out, `addr = 0x2000`, still Active. -/
theorem test_tag_link :
    passes (exec (.tagLink 2 0x02 0x002000)
      (channelSet (ramFrom 0x1000 [0x00, 0x20, 0x00, 0x02, 0x01, 0x02, 0x03, 0x04, 0x05, 0x06, 0x07, 0x08])
        2 0x1000#32 0#32 0x01000401#32 1))
      (fun t => decide (t.ch[2] = ⟨0x2000#32, 0#32, 0x01000401#32⟩ ∧ t.events.length = 8 ∧
        t.events.head? = some (.devOut 2 0x08#8) ∧ t.iflag[2] = false)) = true := by decide

/-- R107's example: the terminator's payload is moved, `addr = 0x00FF_FFFF`, the channel completes and signals. -/
theorem test_tag_last :
    passes (exec (.tagLast 2 0x01)
      { channelSet (ramFrom 0x2000 [0xFF, 0xFF, 0xFF, 0x01, 0xAA, 0xBB, 0xCC, 0xDD]) 2 0x2000#32 0#32 0x01000401#32 1 with
        ie := State.reset.ie.set 2 true, mie := true })
      (fun t => decide (t.ch[2] = ⟨0x00FFFFFF#32, 0#32, 0x00000401#32⟩ ∧ t.iflag[2] = true ∧ t.pending = true ∧
        t.events = [.irqOut true, .intSignal, .devOut 2 0xDD#8, .devOut 2 0xCC#8, .devOut 2 0xBB#8, .devOut 2 0xAA#8])) = true := by
  decide

/-- R105 corner case (b), R106 corner case (b): `size = 0` completes a burst at once and a block only with its count. -/
theorem test_size_zero :
    passes (exec .tick (channelSet State.reset 2 0#32 0x00030000#32 0x01000000#32 1))
      (fun t => decide (t.ch[2] = ⟨0#32, 0x00030000#32, 0#32⟩ ∧ t.iflag[2] = true)) = true ∧
    passes (exec .tick (channelSet State.reset 2 0#32 0x00030000#32 0x01000200#32 1))
      (fun t => decide (t.ch[2] = ⟨0#32, 0x00020000#32, 0x01000200#32⟩ ∧ t.iflag[2] = false)) = true := by decide

/-- R108: a tick whose winner has `sync = 3` is refused. -/
theorem test_unit_reserved :
    exec .tick (channelSet State.reset 2 0#32 0#32 0x01000600#32 1) = .refused .syncReserved := by rfl

/-- R118's example: INTACK lowers `irq_out` while `if[2]` stays 1; R23: the history records the fall. -/
theorem test_intack : passes (exec .intack { State.reset.setFlag 2 with pending := true })
    (fun t => decide (t.pending = false ∧ t.iflag[2] = true ∧ t.events = [.irqOut false])) = true := by decide

/-- R136: RESET makes an Active channel Idle with no flag and no signal, draws the memory anew and emits nothing; R23: the
history records that `irq_out` fell. -/
theorem test_reset : passes (exec .reset { scenario with ram := [(0, 1)], pending := true })
    (fun t => decide (t.ch[2].ctrl = 0#32 ∧ t.iflag = State.reset.iflag ∧ t.pending = false ∧ t.ram = [] ∧
      t.memDraw = 1 ∧ t.events = [.irqOut false])) = true := by decide

/-- R99: channel 16 is rejected on the numbered interface, channel 15 is written. -/
theorem test_numbered :
    passes (step { State.reset with schedule := [.numberedWrite .ctrl 16 0x01000000#32] })
      (fun t => decide (t.ch = State.reset.ch ∧ t.answer = some (.write .reject) ∧ t.schedule = [])) = true ∧
    passes (step { State.reset with schedule := [.numberedWrite .ctrl 15 0x01000000#32] })
      (fun t => decide (t.ch[15].ctrl = 0x01000000#32 ∧ t.answer = some (.write .ok))) = true := by decide

/-- A word placed by the host's interface is the very next operation (log entry 7): with the header zero it is an 8-bit
read; with the header of a 32-bit read, of a 32-bit write and its data, of a PORT operation, it is that operation. -/
theorem test_table_words :
    decodeTableWord 32 0x00000100 = some (.rd8Ram 0x00000100#32) ∧
    decodeTableWord 40 0x041F801028 = some (.rd32ChCtrl 2) ∧
    decodeTableWord 72 0x00000900051F801100 = some (.wr32Dpcr 0x00000900#32) ∧
    decodeTableWord 40 0x0800000002 = some .intack := by decide

/-- R88: the word that writes DPCR, given to the machine right after reset, writes it in the next step. -/
theorem test_with_fetch_word : passes (step (State.reset.withFetchWord 72 0x00000900051F801100))
    (fun t => decide (t.prio[2] = 1#3 ∧ t.en[2] = true ∧ t.schedule = [])) = true := by decide

/-! ## Witnesses: for each statement with hypotheses, a concrete state and operands that meet them all

A statement without hypotheses has none here. A statement with several clauses has a witness for each clause. -/

/-- An outcome that passes a check is a next state that meets it. -/
theorem passes_next {o : Host.Outcome State Fault Refusal} {check : State → Bool} (h : passes o check = true) :
    ∃ t, o = .next t ∧ check t = true := by
  cases o with
  | next t => exact ⟨t, rfl, h⟩
  | fault r => cases r
  | refused r => cases h

/-- The vector-default configuration. -/
abbrev cfg0 : Config := Config.vectorDefault

/-- An access whose last byte is the last byte of its region, one that leaves it by a byte, one whose bytes pass
`0xFFFF_FFFF`. -/
theorem witness_RegionHoldsEveryByteOrIsUnmapped :
    cfg0.wf = true ∧ Region.ram ≠ .unmapped ∧ region cfg0 0x001FFFF8#32 Width.w64.bytes = .ram ∧
    region cfg0 0x001FFFF9#32 Width.w64.bytes = .unmapped ∧
    0xFFFFFFFF < (0xFFFFFFFE#32).toNat + Width.w32.bytes - 1 :=
  ⟨by decide, by decide, by decide, by decide, by simp [Width.bytes]⟩

/-- The last byte of each memory. -/
theorem witness_EachMemoryByteHasOneAddress :
    cfg0.wf = true ∧ 0x1FFFFF < Bank.ram.size cfg0 ∧ 0x1FFFFF < Bank.cram.size cfg0 := by decide

/-- The last doubleword of RAM, the first byte of CRAM. -/
theorem witness_RamAndCramReadsAnswerTheirBytes :
    region State.reset.cfg 0x001FFFF8#32 Width.w64.bytes = Bank.ram.region ∧
    region State.reset.cfg 0x1C000000#32 Width.w8.bytes = Bank.cram.region := by decide

/-- The first doubleword of RAM, the last byte of CRAM. -/
theorem witness_RamAndCramWritesStoreTheirBytes :
    region State.reset.cfg 0x00000000#32 (BusData.b64 1#64).width.bytes = Bank.ram.region ∧
    region State.reset.cfg 0x1C1FFFFF#32 (BusData.b8 1#8).width.bytes = Bank.cram.region := by decide

/-- The first byte and the last word of DEV. -/
theorem witness_DeviceAccessesAreForwarded :
    region State.reset.cfg 0x1F800000#32 Width.w8.bytes = .dev ∧
    region State.reset.cfg 0x1F800FFC#32 (BusData.b32 0#32).width.bytes = .dev := by decide

/-- The byte after RAM; a word that would pass `0xFFFF_FFFF`. -/
theorem witness_UnmappedAccessesChangeNothing :
    region State.reset.cfg 0x00200000#32 Width.w8.bytes = .unmapped ∧
    region State.reset.cfg 0xFFFFFFFD#32 (BusData.b32 0#32).width.bytes = .unmapped := by decide

/-- A word of the last eight bytes of RAM, read as the doubleword it ends; the same in CRAM with the widths exchanged. -/
theorem witness_MixedWidthsSeeTheSameBytes :
    (region State.reset.cfg 0x001FFFFC#32 (BusData.b32 1#32).width.bytes = Bank.ram.region ∧
      region State.reset.cfg 0x001FFFF8#32 Width.w64.bytes = Bank.ram.region) ∧
    region State.reset.cfg 0x1C000000#32 (BusData.b64 1#64).width.bytes = Bank.cram.region ∧
      region State.reset.cfg 0x1C000007#32 Width.w8.bytes = Bank.cram.region := by decide

/-- R7: the vector-default configuration is well formed. -/
theorem witness_ChannelRegisterReadsAnswerTheRegister : State.reset.cfg.wf = true := by decide

/-- R7: the vector-default configuration is well formed. -/
theorem witness_ChannelRegisterWritesStoreTheValue : State.reset.cfg.wf = true := by decide

/-- R7: the vector-default configuration is well formed. -/
theorem witness_PriorityReadsPackTheNibbles : State.reset.cfg.wf = true := by decide

/-- R7: the vector-default configuration is well formed. -/
theorem witness_PriorityWritesAssignTheirGroup : State.reset.cfg.wf = true := by decide

/-- R7: the vector-default configuration is well formed. -/
theorem witness_InterruptReadsPackEnablesAndFlags : State.reset.cfg.wf = true := by decide

/-- R7: the vector-default configuration is well formed. -/
theorem witness_InterruptWritesEnableAndAcknowledge : State.reset.cfg.wf = true := by decide

/-- Each clause at an end of the window: a byte read, a misaligned word write, the first and the last word of the reserved
range. -/
theorem witness_RejectedAccessesChangeNothing :
    (region State.reset.cfg 0x1F8011FF#32 Width.w8.bytes = .dma ∧
      (Width.w8 ≠ .w32 ∨ ((0x1F8011FF#32).toNat - State.reset.cfg.dmaBase.toNat) % 4 ≠ 0)) ∧
    (region State.reset.cfg 0x1F801001#32 (BusData.b32 0#32).width.bytes = .dma ∧
      ((BusData.b32 0#32).width ≠ .w32 ∨ ((0x1F801001#32).toNat - State.reset.cfg.dmaBase.toNat) % 4 ≠ 0)) ∧
    (region State.reset.cfg 0x1F801110#32 4 = .dma ∧
      ((0x1F801110#32).toNat - State.reset.cfg.dmaBase.toNat) % 4 = 0 ∧
      0x110 ≤ (0x1F801110#32).toNat - State.reset.cfg.dmaBase.toNat) ∧
    region State.reset.cfg 0x1F8011FC#32 4 = .dma ∧
      ((0x1F8011FC#32).toNat - State.reset.cfg.dmaBase.toNat) % 4 = 0 ∧
      0x110 ≤ (0x1F8011FC#32).toNat - State.reset.cfg.dmaBase.toNat :=
  ⟨⟨by decide, .inl (by decide)⟩, ⟨by decide, .inr (by simp [State.reset, Config.vectorDefault])⟩,
    ⟨by decide, by simp [State.reset, Config.vectorDefault], by simp [State.reset, Config.vectorDefault]⟩,
    by decide, by simp [State.reset, Config.vectorDefault], by simp [State.reset, Config.vectorDefault]⟩

/-- Both clauses where they meet. -/
theorem witness_OutOfRangeChannelNumberIsRejected : 16 ≤ 16 ∧ 15 < 16 := by decide

/-- A tick with no eligible channel, one with a winner. -/
theorem witness_TickRunsTheWinnersUnit : winner State.reset = none ∧ winner scenario = some 2 := by decide

/-- The longest transfer, and the one of no bytes. -/
theorem witness_TransferMovesEachByte : 2 ^ 32 ≤ 2 ^ 32 ∧ 0 ≤ 2 ^ 32 := ⟨Nat.le_refl _, Nat.zero_le _⟩

/-- Channel 2, alone, with this block control and control word. -/
def only (bcr ctrl : Word) : State := channelSet State.reset 2 0x1000#32 bcr ctrl 1

/-- A block that leaves more, the last block, `size = 0`, `count = 0`; both directions. -/
theorem witness_BurstUnitMovesOneBlock :
    ∀ x ∈ [(0x00040004#32, 0x01000000#32, Direction.fromDevice, 4, 4),
        (0x0001FFFF#32, 0x01000001#32, .toDevice, 0xFFFF, 1),
        (0x00030000#32, 0x01000000#32, .fromDevice, 0, 3), (0x00000004#32, 0x01000001#32, .toDevice, 4, 0)],
      winner (only x.1 x.2.1) = some 2 ∧ (only x.1 x.2.1).ch[2].ctrl.extractLsb' 9 2 = 0#2 ∧
      ctrlDir (only x.1 x.2.1).ch[2].ctrl = x.2.2.1 ∧
      x.2.2.2.1 = ((only x.1 x.2.1).ch[2].bcr.extractLsb' 0 16).toNat ∧
      x.2.2.2.2 = ((only x.1 x.2.1).ch[2].bcr.extractLsb' 16 16).toNat := by decide

/-- A block that leaves more, the last block, `size = 0` with blocks left, `count = 0`; both directions. -/
theorem witness_BlockUnitMovesOneBlock :
    ∀ x ∈ [(0x00020004#32, 0x01000200#32, Direction.fromDevice, 4, 2),
        (0x0001FFFF#32, 0x01000201#32, .toDevice, 0xFFFF, 1),
        (0x00030000#32, 0x01000200#32, .fromDevice, 0, 3), (0x00000004#32, 0x01000201#32, .toDevice, 4, 0)],
      winner (only x.1 x.2.1) = some 2 ∧ (only x.1 x.2.1).ch[2].ctrl.extractLsb' 9 2 = 1#2 ∧
      ctrlDir (only x.1 x.2.1).ch[2].ctrl = x.2.2.1 ∧
      x.2.2.2.1 = ((only x.1 x.2.1).ch[2].bcr.extractLsb' 0 16).toNat ∧
      x.2.2.2.2 = ((only x.1 x.2.1).ch[2].bcr.extractLsb' 16 16).toNat := by decide

/-- Both directions. -/
theorem witness_ListUnitMovesOneNode :
    ∀ x ∈ [(0x01000400#32, Direction.fromDevice), (0x01000401#32, .toDevice)],
      winner (only 0#32 x.1) = some 2 ∧ (only 0#32 x.1).ch[2].ctrl.extractLsb' 9 2 = 2#2 ∧
      ctrlDir (only 0#32 x.1).ch[2].ctrl = x.2 := by decide

/-- Channel 2 in linked-list mode at the first bytes of RAM, with this tag there. -/
def atTag (tag : List Byte) : State := channelSet (ramFrom 0 tag) 2 0#32 0#32 0x01000401#32 1

/-- A terminator, and the link next below it. -/
theorem witness_TagRowsAreTheTicksNode :
    ∀ x ∈ [([0xFF#8, 0xFF#8, 0xFF#8, 0x01#8], 0xFFFFFF#24), ([0xFE#8, 0xFF#8, 0xFF#8, 0x01#8], 0xFFFFFE#24)],
      winner (atTag x.1) = some 2 ∧ (atTag x.1).ch[2].ctrl.extractLsb' 9 2 = 2#2 ∧
      (∀ i, i < 4 → region (atTag x.1).cfg (transferAddress (atTag x.1).ch[2].addr i) 1 = Bank.ram.region) ∧
      ∀ i, i < 4 → (atTag x.1).byteAt .ram (bankOffset (atTag x.1).cfg .ram (transferAddress (atTag x.1).ch[2].addr i)) =
        (0x01#8 ++ x.2 : Word).extractLsb' (8 * i) 8 := by decide

/-- A winner with the reserved mode; a control word with it. -/
theorem witness_ReservedSyncModeIsRefused :
    winner (only 0#32 0x01000600#32) = some 2 ∧ (only 0#32 0x01000600#32).ch[2].ctrl.extractLsb' 9 2 = 3#2 ∧
    (0x01000600#32).extractLsb' 9 2 = 3#2 := by decide

/-- A tick that completes channel 2 with both enables set. -/
def finishing : State :=
  { only 0x00000004#32 0x01000000#32 with ie := State.reset.ie.set 2 true, mie := true }

/-- The completing tick: it changes a flag and a busy bit. -/
theorem witness_OneTickCompletesAtMostOneChannel : ∃ t, exec .tick finishing = .next t ∧
    decide (t.iflag[2] ≠ finishing.iflag[2] ∧ ctrlBusy t.ch[2].ctrl ≠ ctrlBusy finishing.ch[2].ctrl) = true :=
  passes_next (by decide)

/-- Channel 3 loses the tick and channel 2 stays Active. -/
theorem witness_LosersWaitAndWinnerKeepsWinning :
    winner (channelSet scenario 3 0#32 0x00010001#32 0x01000000#32 1) = some 2 ∧
    ∃ t, exec .tick (channelSet scenario 3 0#32 0x00010001#32 0x01000000#32 1) = .next t ∧
      decide (winner (channelSet scenario 3 0#32 0x00010001#32 0x01000000#32 1) ≠ some 3 ∧
        ctrlBusy t.ch[2].ctrl = true) = true :=
  ⟨by decide, passes_next (by decide)⟩

/-- Burst with `size = 1`; block with `size = 0`, and with `count = 0`; `k = 0` is before the last tick. Burst with
`size = 0` and blocks left. -/
theorem witness_TransferCompletesInCountTicks :
    (∀ x ∈ [(0x00030001#32, 0x01000000#32, 1, 3), (0x00020000#32, 0x01000200#32, 0, 2), (0x00000007#32, 0x01000200#32, 7, 0)],
      winner (only x.1 x.2.1) = some 2 ∧ x.2.2.1 = bcrSize (only x.1 x.2.1).ch[2].bcr ∧
      x.2.2.2 = bcrCount (only x.1 x.2.1).ch[2].bcr ∧
      ((ctrlSync (only x.1 x.2.1).ch[2].ctrl = .burst ∧ x.2.2.1 ≠ 0) ∨ ctrlSync (only x.1 x.2.1).ch[2].ctrl = .block) ∧
      0 < max x.2.2.2 1) ∧
    winner (only 0x00030000#32 0x01000000#32) = some 2 ∧ 0 = bcrSize (only 0x00030000#32 0x01000000#32).ch[2].bcr ∧
      3 = bcrCount (only 0x00030000#32 0x01000000#32).ch[2].bcr ∧
      ctrlSync (only 0x00030000#32 0x01000000#32).ch[2].ctrl = .burst := by decide

/-- A loop of two nodes, at 0 with one word of payload and at 8 with none, sent to the device. -/
def twoNodes : State := atTag [0x08, 0x00, 0x00, 0x01, 0x11, 0x22, 0x33, 0x44, 0x00, 0x00, 0x00, 0x00]

/-- The tags of the two nodes. -/
def twoTags (a : Word) : Word := if a = 0#32 then 0x01000008#32 else 0x00000000#32

/-- The four bytes at a node of the loop are in RAM and are its tag. -/
theorem twoNodes_tag_0 : ∀ i, i < 4 → region twoNodes.cfg (transferAddress 0#32 i) 1 = Bank.ram.region ∧
    twoNodes.byteAt .ram (bankOffset twoNodes.cfg .ram (transferAddress 0#32 i)) =
      (twoTags 0#32).extractLsb' (8 * i) 8 := by decide

/-- The four bytes at a node of the loop are in RAM and are its tag. -/
theorem twoNodes_tag_8 : ∀ i, i < 4 → region twoNodes.cfg (transferAddress 8#32 i) 1 = Bank.ram.region ∧
    twoNodes.byteAt .ram (bankOffset twoNodes.cfg .ram (transferAddress 8#32 i)) =
      (twoTags 8#32).extractLsb' (8 * i) 8 := by decide

/-- The set of the two addresses is closed under the links, and each tag is in RAM. -/
theorem witness_LoopingListStarvesLowerChannels :
    winner twoNodes = some 2 ∧ ctrlSync twoNodes.ch[2].ctrl = .list ∧ twoNodes.ch[2].addr ∈ [0#32, 8#32] ∧
    ∀ a ∈ [0#32, 8#32],
      (twoTags a).extractLsb' 0 24 ≠ 0xFFFFFF#24 ∧ (0#8 ++ (twoTags a).extractLsb' 0 24 : Word) ∈ [0#32, 8#32] ∧
      (ctrlDir twoNodes.ch[2].ctrl = .toDevice ∨ (twoTags a).extractLsb' 24 8 = 0#8) ∧
      ∀ i, i < 4 → region twoNodes.cfg (transferAddress a i) 1 = Bank.ram.region ∧
        twoNodes.byteAt .ram (bankOffset twoNodes.cfg .ram (transferAddress a i)) = (twoTags a).extractLsb' (8 * i) 8 := by
  refine ⟨by decide, by decide, by decide, fun a ha => ?_⟩
  simp only [List.mem_cons, List.not_mem_nil, or_false] at ha
  obtain rfl | rfl := ha
  · exact ⟨by decide, by decide, .inl (by decide), twoNodes_tag_0⟩
  · exact ⟨by decide, by decide, .inl (by decide), twoNodes_tag_8⟩

/-- The power-on state, and the state a RESET leaves from the middle of a transfer. -/
theorem witness_ResetZeroesRegistersAndRedrawsMemory :
    (State.reset = State.reset ∨ exec .reset scenario = .next State.reset) ∧
    ∃ t, exec .reset scenario = .next t ∧ (t = State.reset ∨ exec .reset scenario = .next t) :=
  ⟨.inl rfl, _, rfl, .inr rfl⟩

/-- As above: both disjuncts. -/
theorem witness_AfterResetTheBlockIsInert :
    (State.reset = State.reset ∨ exec .reset scenario = .next State.reset) ∧
    ∃ t, exec .reset scenario = .next t ∧ (t = State.reset ∨ exec .reset scenario = .next t) :=
  ⟨.inl rfl, _, rfl, .inr rfl⟩

/-- The state after reset with these inputs in the schedule. -/
def given (s : State) (inputs : List Input) : State := { s with schedule := inputs }

/-- A step that stores a byte, from a state that meets the invariant. -/
theorem witness_StepKeepsTheInvariant :
    (given State.reset [.record [0x00, 0x01, 0x00, 0x00, 0x01, 0x5A]]).Inv ∧
    ∃ t, step (given State.reset [.record [0x00, 0x01, 0x00, 0x00, 0x01, 0x5A]]) = .next t ∧
      decide (t.ram = [(0x100, 0x5A#8)]) = true :=
  ⟨by unfold State.Inv; decide, passes_next (by decide)⟩

/-- A step with a schedule, a step with none. -/
theorem witness_StepTakesOneOperation :
    (∃ t, step (given State.reset [.record [0, 0, 0, 0, 0x08]]) = .next t ∧ decide (t.schedule = []) = true) ∧
    ∃ t, step State.reset = .next t ∧ decide (t = State.reset) = true :=
  ⟨passes_next (by decide), passes_next (by decide)⟩

/-- A tick of an Active channel whose mode is not the reserved one. -/
theorem witness_EveryOperationCompletes :
    ofEnvironment .tick = true ∧ WellFormed scenario.cfg .tick = true ∧ scenario.noReservedActive := by
  refine ⟨by decide, by decide, ?_⟩
  unfold State.noReservedActive
  decide

/-- A write of the last byte of RAM, from a state that lists another value there: the byte changes. -/
theorem witness_EveryMemoryChangeIsAnnounced :
    ∃ t, step (given (ramFrom 0x1FFFFF [0x11]) [.record [0xFF, 0xFF, 0x1F, 0x00, 0x01, 0x5A]]) = .next t ∧
      decide (t.memDraw = (ramFrom 0x1FFFFF [0x11]).memDraw ∧
        t.byteAt .ram 0x1FFFFF ≠ (ramFrom 0x1FFFFF [0x11]).byteAt .ram 0x1FFFFF) = true :=
  passes_next (by decide)

/-- A flag that a tick sets; a flag that a write of each group's register clears, at the ends of the groups. -/
theorem witness_FlagsChangeOnlyAsListed :
    (∃ t, exec .tick finishing = .next t ∧ decide (finishing.iflag[2] = false ∧ t.iflag[2] = true) = true) ∧
    (∃ t, exec (.wr32Dicr 0x80000000#32) (State.reset.setFlag 7) = .next t ∧
      decide ((State.reset.setFlag 7).iflag[7] = true ∧ t.iflag[7] = false) = true) ∧
    ∃ t, exec (.wr32Dicr2 0x01000000#32) (State.reset.setFlag 8) = .next t ∧
      decide ((State.reset.setFlag 8).iflag[8] = true ∧ t.iflag[8] = false) = true :=
  ⟨passes_next (by decide), passes_next (by decide), passes_next (by decide)⟩

/-- A start, a stop by software, a completion. -/
theorem witness_BusyChangesOnlyAsListed :
    (∃ t, exec (.wr32ChCtrl 15 0x01000000#32) State.reset = .next t ∧
      decide (ctrlBusy State.reset.ch[15].ctrl = false ∧ ctrlBusy t.ch[15].ctrl = true) = true) ∧
    (∃ t, exec (.wr32ChCtrl 2 0#32) scenario = .next t ∧
      decide (ctrlBusy scenario.ch[2].ctrl = true ∧ ctrlBusy t.ch[2].ctrl = false) = true) ∧
    ∃ t, exec .tick finishing = .next t ∧
      decide (ctrlBusy finishing.ch[2].ctrl = true ∧ ctrlBusy t.ch[2].ctrl = false) = true :=
  ⟨passes_next (by decide), passes_next (by decide), passes_next (by decide)⟩

/-- A bus access with the sink pending; a tick and an INTACK that change it. -/
theorem witness_SinkIsOutsideTheAddressSpace :
    (∃ t, exec .rd32Dicr { State.reset with pending := true } = .next t ∧ decide (Instr.rd32Dicr.format = .bus) = true) ∧
    (∃ t, exec .tick finishing = .next t ∧ decide (t.pending ≠ finishing.pending) = true) ∧
    ∃ t, exec .intack { State.reset with pending := true } = .next t ∧ decide (t.pending ≠ true) = true :=
  ⟨passes_next (by decide), passes_next (by decide), passes_next (by decide)⟩

/-- A step that raises the line and adds the event; a step that adds the event while the line is high already. -/
theorem witness_SignalNeedsBothEnables :
    (∃ t, step (given finishing [.record [0, 0, 0, 0, 0x08]]) = .next t ∧
      decide (irqOut finishing = false ∧ irqOut t = true) = true) ∧
    ∃ t, step (given { finishing with pending := true } [.record [0, 0, 0, 0, 0x08]]) = .next t ∧
      decide (t.events = [.intSignal]) = true :=
  ⟨passes_next (by decide), passes_next (by decide)⟩

/-- A rise; a signal into a set sink, which is no change; a fall; an INTACK of a clear sink, which is none. -/
theorem witness_HistoryRecordsTheLevel :
    (∃ t, step (given finishing [.record [0, 0, 0, 0, 0x08]]) = .next t ∧
      decide (t.events = [.irqOut true, .intSignal]) = true) ∧
    (∃ t, step (given { finishing with pending := true } [.record [0, 0, 0, 0, 0x08]]) = .next t ∧
      decide (t.events = [.intSignal]) = true) ∧
    (∃ t, step (given { State.reset with pending := true } [.record [2, 0, 0, 0, 0x08]]) = .next t ∧
      decide (t.events = [.irqOut false]) = true) ∧
    ∃ t, step (given State.reset [.record [2, 0, 0, 0, 0x08]]) = .next t ∧ decide (t.events = []) = true :=
  ⟨passes_next (by decide), passes_next (by decide), passes_next (by decide), passes_next (by decide)⟩

/-- A channel that has completed with its enables clear is no longer eligible. -/
theorem witness_LateEnableRaisesNothing : winner (complete 2 scenario) = none ∧ (complete 2 scenario).iflag[2] = true := by
  decide

/-- A write of DPCR2 that changes a priority and an enable, a write of DICR that changes `mie`. -/
theorem witness_EnablesAreWrittenOnlyByTheirRegisters :
    (∃ t, exec (.wr32Dpcr2 0xF0000000#32) State.reset = .next t ∧
      decide (t.prio ≠ State.reset.prio ∧ t.en ≠ State.reset.en) = true) ∧
    ∃ t, exec (.wr32Dicr 0x00808000#32) State.reset = .next t ∧
      decide (t.ie ≠ State.reset.ie ∧ t.mie ≠ State.reset.mie) = true :=
  ⟨passes_next (by decide), passes_next (by decide)⟩

/-- The last byte of CRAM. -/
theorem witness_InspectorAgreesWithBusReads : region State.reset.cfg 0x1C1FFFFF#32 1 = Bank.cram.region := by decide

/-- An operation of each format. -/
theorem witness_DecodeOfEncodeIsTheOperation :
    cfg0.wf = true ∧ ∀ i ∈ [Instr.wr64Cram 0x1C1FFFF8#32 1#64, .tick, .unitReserved 15 .toDevice, .tagLink 0 255 0xFFFFFE#24],
      WellFormed cfg0 i = true := by decide

/-- A BUS record, and a REG record with unknown bits set. -/
theorem witness_EncodeOfDecodeIsTheRecord :
    cfg0.wf = true ∧ decode cfg0 [0xFF, 0xFF, 0x1F, 0x1C, 0x01, 0x5A] = .ok (.wr8Cram 0x1C1FFFFF#32 0x5A#8) ∧
    (Instr.wr8Cram 0x1C1FFFFF#32 0x5A#8).format ≠ .reg ∧
    decode cfg0 [0xFE, 0xF9, 0xFF, 0xFE, 0x10, 0x07] = .ok (.unitBurst 7 .fromDevice) := by decide

/-- A record that is an operation, a record that is none. -/
theorem witness_StepRunsTheDecodedOperation :
    decode State.reset.cfg [0, 0, 0, 0, 0x08] = .ok .tick ∧
    decode State.reset.cfg [3, 0, 0, 0, 0x08] = .error .unknownPort := by decide

end Sys2Proof.Tests
end

section
/-! The family of spec/00_scope.md: the invariant `State.Inv` holds right after reset and every step keeps it, and a step runs
the operation its record decodes to. Each part of the invariant (configuration, memories, recorded level) is followed through
the effects of Laws/Exec.lean in a lemma of its own. -/

namespace Sys2Proof.Machine

/-! ## The invariant by its three parts -/

/-- The invariant with both memories under one quantifier. -/
theorem State.inv_iff (s : State) : s.Inv ↔
    s.cfg.wf = true ∧ (∀ b : Bank, Memory.wf (s.bank b) ∧ Memory.within (s.bank b) (b.size s.cfg)) ∧
      recordedLevel s.events = s.pending := by
  constructor
  · rintro ⟨hc, hrw, hrn, hcw, hcn, hl⟩
    refine ⟨hc, fun b => ?_, hl⟩
    cases b with
    | ram => exact ⟨hrw, hrn⟩
    | cram => exact ⟨hcw, hcn⟩
  · rintro ⟨hc, hm, hl⟩
    exact ⟨hc, (hm .ram).1, (hm .ram).2, (hm .cram).1, (hm .cram).2, hl⟩

/-- The history tells the level between `s` and `u`: if its newest level is the sink's in `s`, then it is in `u` (R23, R119). -/
def KeepsLevel (s u : State) : Prop :=
  recordedLevel s.events = s.pending → recordedLevel u.events = u.pending

theorem KeepsLevel.of_unchanged {s u : State} (he : u.events = s.events) (hp : u.pending = s.pending) :
    KeepsLevel s u := fun h => by rw [he, hp, h]

/-- An announced change records no level, so that with the sink unchanged the history still tells it. -/
theorem KeepsLevel.of_announced {s u : State} (ha : Announced s u) (hp : u.pending = s.pending) : KeepsLevel s u := by
  intro h
  obtain ⟨added, he, hadded, -⟩ := ha
  rw [he, recordedLevel_append (fun e hm => (hadded e hm).2), h, hp]

/-- A write of the sink records its change (R21, R23). -/
theorem State.setPending_keepsLevel (s : State) (l : Bool) : KeepsLevel s (s.setPending l) :=
  fun h => recordedLevel_irqRecord h

theorem complete_keepsLevel (c : ChannelIx) (s : State) : KeepsLevel s (complete c s) := by
  intro h
  rw [complete_eq]
  exact recordedLevel_completionEvents h

/-- What keeps the configuration and each further part of the invariant keeps the invariant. -/
theorem State.Inv.of_keeps {s t : State} (hs : s.Inv) (hc : t.cfg = s.cfg) (hm : KeepsMemories s t)
    (hl : KeepsLevel s t) : t.Inv := by
  obtain ⟨hwf, hmem, hlev⟩ := s.inv_iff.mp hs
  refine t.inv_iff.mpr ⟨hc ▸ hwf, fun b => ?_, hl hlev⟩
  obtain ⟨hw, hn⟩ := hmem b
  rw [hc]
  exact hm b hw hn

/-! ## Completions and units of work -/

@[simp] theorem complete_cfg (c : ChannelIx) (s : State) : (complete c s).cfg = s.cfg := by rw [complete_eq]

@[simp] theorem complete_bank (c : ChannelIx) (s : State) (b : Bank) : (complete c s).bank b = s.bank b := by
  rw [complete_eq]
  cases b <;> rfl

theorem UnitBody.cfg {c : ChannelIx} {s u : State} (h : UnitBody c s u) : u.cfg = s.cfg := by rw [h.eq]

theorem UnitBody.pending {c : ChannelIx} {s u : State} (h : UnitBody c s u) : u.pending = s.pending := by rw [h.eq]

theorem UnitBody.keepsLevel {c : ChannelIx} {s u : State} (h : UnitBody c s u) : KeepsLevel s u :=
  .of_announced h.announced h.pending

/-! ## Register writes, stores and resets -/

@[simp] theorem writePriority_bank (g : Fin 2) (v : Word) (s : State) (b : Bank) :
    (writePriority g v s).bank b = s.bank b := by
  cases b <;> simp only [State.bank, writePriority_ram, writePriority_cram]

@[simp] theorem writeInterrupt_bank (g : Fin 2) (v : Word) (s : State) (b : Bank) :
    (writeInterrupt g v s).bank b = s.bank b := by
  cases b <;> simp only [State.bank, writeInterrupt_ram, writeInterrupt_cram]

/-- A store whose bytes lie in the memory's region keeps both memories (R22, R37). -/
theorem State.storeBytes_keepsMemories {s : State} {b : Bank} {a : Word} {xs : List Byte}
    (hr : region s.cfg a xs.length = b.region) : KeepsMemories s (s.storeBytes b (bankOffset s.cfg b a) xs) := by
  intro b' hw hn
  refine ⟨s.storeBytes_wf b b' _ xs hw, s.storeBytes_within b b' _ _ xs hn ?_⟩
  rintro rfl
  exact bankOffset_lt hr

/-- RESET leaves nothing listed (R136). -/
@[simp] theorem resetState_bank (s : State) (b : Bank) : (resetState s).bank b = [] := by cases b <;> rfl

/-! ## What an operation that completes keeps -/

/-- No operation changes the configuration (R23). -/
theorem Effect.cfg {s t : State} {i : Instr} (h : Effect s i t) : t.cfg = s.cfg := by
  cases h with
  | worked c u hw hi hu => exact hu.cfg
  | completed c u hw hi hu => rw [complete_cfg, hu.cfg, State.answerWith_cfg]
  | answered d ans hd => rfl
  | _ => simp

/-- Every operation keeps both memories in their canonical form and inside their regions (R22). -/
theorem Effect.keepsMemories {s t : State} {i : Instr} (h : Effect s i t) : KeepsMemories s t := by
  cases h with
  | answered d ans hd => exact .of_unchanged fun b => by cases b <;> rfl
  | stored b a d hi hr =>
    rw [← d.bytes_length] at hr
    simpa [KeepsMemories] using State.storeBytes_keepsMemories hr
  | worked c u hw hi hu => simpa [KeepsMemories] using hu.keeps
  | completed c u hw hi hu => simpa [KeepsMemories] using hu.keeps
  | wasReset hi =>
    intro b _ _
    rw [State.answerWith_bank, resetState_bank]
    exact ⟨Memory.wf_nil, Memory.within_nil _⟩
  | _ => exact .of_unchanged fun b => by simp

/-- Every operation leaves a history that tells the sink's level, if it told it before (R23, R119). -/
theorem Effect.keepsLevel {s t : State} {i : Instr} (h : Effect s i t) : KeepsLevel s t := by
  cases h with
  | answered d ans hd => exact .of_unchanged rfl rfl
  | stored b a d hi hr => exact fun h => by simpa [recordedLevel] using h
  | forwarded a d hi => exact id
  | worked c u hw hi hu => exact hu.keepsLevel
  | completed c u hw hi hu => exact fun h => complete_keepsLevel c u (hu.keepsLevel h)
  | wasReset hi => exact s.setPending_keepsLevel State.reset.pending
  | acknowledged hi => exact s.setPending_keepsLevel false
  | _ => exact .of_unchanged (by simp) (by simp)

/-- An operation that completes keeps the invariant. -/
theorem Effect.inv {s t : State} {i : Instr} (h : Effect s i t) (hs : s.Inv) : t.Inv :=
  hs.of_keeps h.cfg h.keepsMemories h.keepsLevel

/-- The invariant says nothing of the schedule. -/
theorem State.Inv.with_schedule {s : State} (hs : s.Inv) (xs : List Input) : State.Inv { s with schedule := xs } := hs

/-- Settles O35: an empty schedule changes nothing, and every effect an operation can have keeps each part of the invariant. -/
theorem stepKeepsTheInvariant : Obligations.StepKeepsTheInvariant := by
  intro s t hs h
  rcases step_effect h with ⟨-, rfl⟩ | ⟨x, rest, i, -, he⟩
  · exact hs
  · exact he.inv (hs.with_schedule rest)

/-! ## The state after reset -/

/-- Settles O34: the vector-default configuration is well formed, both memories list nothing, and the empty history tells the
low level the sink has (the configuration is log entry 1's choice, the recorded level log entry 15's). -/
theorem resetMeetsTheInvariant : Obligations.ResetMeetsTheInvariant := by
  refine State.reset.inv_iff.mpr ⟨vectorDefault_wf, fun b => ?_, rfl⟩
  have hb : State.reset.bank b = [] := by cases b <;> rfl
  rw [hb]
  exact ⟨Memory.wf_nil, Memory.within_nil _⟩

/-! ## A step and the decoder -/

/-- A record that decodes is its operation's meaning (R11). -/
theorem applyInput_record_ok {s : State} {bytes : List Byte} {i : Instr} (h : decode s.cfg bytes = .ok i) :
    applyInput (.record bytes) s = exec i s := by
  simp only [applyInput, h]

/-- A record that does not decode is refused by name (log entry 6). -/
theorem applyInput_record_error {s : State} {bytes : List Byte} {e : DecodeError}
    (h : decode s.cfg bytes = .error e) : applyInput (.record bytes) s = .refused (.undecodable e) := by
  simp only [applyInput, h]

/-- Settles O52: `step` applies the head of the schedule to the state without it, whose configuration the decoder reads. -/
theorem stepRunsTheDecodedOperation : Obligations.StepRunsTheDecodedOperation := by
  intro s record rest
  refine ⟨fun i h => ?_, fun e h => ?_, rfl⟩
  · exact applyInput_record_ok (s := { s with schedule := rest }) h
  · exact applyInput_record_error (s := { s with schedule := rest }) h

end Sys2Proof.Machine
end

section
/-! The family of spec/10_state.md: what an operation does to the configuration and the schedule, to a channel's flag and busy
bit, to the priorities and enables, and to the recorded level of `irq_out`. Each element is followed through the effects of
Laws/Exec.lean once; the statements read their answers off those lemmas. -/

namespace Sys2Proof.Machine

/-! ## One element of a per-channel array -/

/-- A part of an element that the element put in its place shares is the same in every element afterwards. -/
theorem PerChannel.get_set_part {α β : Type} (f : α → β) (v : PerChannel α) {c : ChannelIx} (x : α) (hx : f x = f v[c])
    (c' : ChannelIx) : f (v.set c x)[c'] = f v[c'] := by
  by_cases hc : c' = c
  · rw [hc, PerChannel.get_set_self, hx]
  · rw [PerChannel.get_set_other v x hc]

/-! ## Completions and units of work, field by field -/

@[simp] theorem complete_schedule (c : ChannelIx) (s : State) : (complete c s).schedule = s.schedule := by rw [complete_eq]
@[simp] theorem complete_prio (c : ChannelIx) (s : State) : (complete c s).prio = s.prio := by rw [complete_eq]
@[simp] theorem complete_en (c : ChannelIx) (s : State) : (complete c s).en = s.en := by rw [complete_eq]
@[simp] theorem complete_ie (c : ChannelIx) (s : State) : (complete c s).ie = s.ie := by rw [complete_eq]
@[simp] theorem complete_mie (c : ChannelIx) (s : State) : (complete c s).mie = s.mie := by rw [complete_eq]
@[simp] theorem complete_iflag (c : ChannelIx) (s : State) : (complete c s).iflag = s.iflag.set c true := by
  rw [complete_eq]
@[simp] theorem complete_ch (c : ChannelIx) (s : State) :
    (complete c s).ch = s.ch.set c { s.ch[c] with ctrl := clearBusy s.ch[c].ctrl } := by rw [complete_eq]

theorem UnitBody.schedule {c : ChannelIx} {s u : State} (h : UnitBody c s u) : u.schedule = s.schedule := by rw [h.eq]

theorem UnitBody.prio {c : ChannelIx} {s u : State} (h : UnitBody c s u) : u.prio = s.prio := by rw [h.eq]

theorem UnitBody.en {c : ChannelIx} {s u : State} (h : UnitBody c s u) : u.en = s.en := by rw [h.eq]

theorem UnitBody.ie {c : ChannelIx} {s u : State} (h : UnitBody c s u) : u.ie = s.ie := by rw [h.eq]

theorem UnitBody.mie {c : ChannelIx} {s u : State} (h : UnitBody c s u) : u.mie = s.mie := by rw [h.eq]

theorem UnitBody.iflag {c : ChannelIx} {s u : State} (h : UnitBody c s u) : u.iflag = s.iflag := by rw [h.eq]

/-- A unit of work rewrites its channel's address and block control, and no control word (R105, R106, R107). -/
theorem UnitBody.ctrl {c : ChannelIx} {s u : State} (h : UnitBody c s u) (c' : ChannelIx) :
    u.ch[c'].ctrl = s.ch[c'].ctrl := by
  rw [h.eq]
  exact PerChannel.get_set_part Channel.ctrl s.ch ⟨u.ch[c].addr, u.ch[c].bcr, s.ch[c].ctrl⟩ rfl c'

/-! ## The schedule -/

/-- No operation touches the schedule: only `step` takes an operation off it (log entry 5). -/
theorem Effect.schedule {s t : State} {i : Instr} (h : Effect s i t) : t.schedule = s.schedule := by
  cases h with
  | worked c u hw hi hu => exact hu.schedule
  | completed c u hw hi hu => rw [complete_schedule, hu.schedule, State.answerWith_schedule]
  | answered d ans hd => rfl
  | _ => simp

/-- Settles O36: an operation changes neither field, and `step` applies it to the state without its input. -/
theorem stepTakesOneOperation : Obligations.StepTakesOneOperation := by
  intro s t h
  rcases step_effect h with ⟨he, rfl⟩ | ⟨x, rest, i, he, hi⟩
  · exact ⟨rfl, by rw [he, List.tail_nil]⟩
  · exact ⟨hi.cfg, by rw [hi.schedule, he, List.tail_cons]⟩

/-! ## Priorities and enables (R19, R20) -/

/-- What an operation does to the priorities and the channel enables. -/
theorem Effect.priority_cases {s t : State} {i : Instr} (h : Effect s i t) :
    (t.prio = s.prio ∧ t.en = s.en) ∨ i = .reset ∨ ∃ v, i = .wr32Dpcr v ∨ i = .wr32Dpcr2 v := by
  cases h with
  | wrotePriority g v hi => exact .inr (.inr ⟨v, hi.imp And.right And.right⟩)
  | wasReset hi => exact .inr (.inl hi)
  | worked c u hw hi hu => exact .inl ⟨hu.prio, hu.en⟩
  | completed c u hw hi hu => exact .inl ⟨by simp [hu.prio], by simp [hu.en]⟩
  | _ => exact .inl (by simp)

/-- What an operation does to the interrupt enables and the master enable. -/
theorem Effect.interruptEnable_cases {s t : State} {i : Instr} (h : Effect s i t) :
    (t.ie = s.ie ∧ t.mie = s.mie) ∨ i = .reset ∨ ∃ v, i = .wr32Dicr v ∨ i = .wr32Dicr2 v := by
  cases h with
  | wroteInterrupt g v hi => exact .inr (.inr ⟨v, hi.imp And.right And.right⟩)
  | wasReset hi => exact .inr (.inl hi)
  | worked c u hw hi hu => exact .inl ⟨hu.ie, hu.mie⟩
  | completed c u hw hi hu => exact .inl ⟨by simp [hu.ie], by simp [hu.mie]⟩
  | _ => exact .inl (by simp)

/-- Settles O46: where an enable or a priority has changed, the case in which both are kept is out. -/
theorem enablesAreWrittenOnlyByTheirRegisters : Obligations.EnablesAreWrittenOnlyByTheirRegisters := by
  intro s t i h
  have he := exec_effect h
  refine ⟨fun hne => ?_, fun hne => ?_⟩
  · exact he.priority_cases.resolve_left fun ⟨hp, hn⟩ => hne.elim (· hp) (· hn)
  · exact he.interruptEnable_cases.resolve_left fun ⟨hie, hm⟩ => hne.elim (· hie) (· hm)

/-! ## Completion of a channel by an operation (R25, R111) -/

/-- What a completion of channel `c` by operation `i` from `s` to `t` shows: the channel had won, the operation was a tick or a
row that only a tick performs, and after it the busy bit is clear and the flag set. -/
structure CompletedBy (s : State) (i : Instr) (t : State) (c : ChannelIx) : Prop where
  won : winner s = some c
  byTick : i = .tick ∨ ofEnvironment i = false
  idle : ctrlBusy t.ch[c].ctrl = false
  flagged : t.iflag[c] = true

/-- A unit of work that completes its channel completes it alone: every other channel keeps its control word and flag. -/
theorem UnitBody.complete_cases {s u : State} {i : Instr} {w : ChannelIx} (hw : winner s = some w)
    (hi : i = .tick ∨ ofEnvironment i = false) (hu : UnitBody w (s.answerWith none) u) (c : ChannelIx) :
    CompletedBy s i (complete w u) c ∨
      ((complete w u).ch[c].ctrl = s.ch[c].ctrl ∧ (complete w u).iflag[c] = s.iflag[c]) := by
  by_cases hc : c = w
  · subst hc
    exact .inl ⟨hw, hi, by rw [complete_ch, PerChannel.get_set_self, ctrlBusy_clearBusy],
      by rw [complete_iflag, PerChannel.get_set_self]⟩
  · refine .inr ⟨?_, ?_⟩
    · rw [complete_ch, PerChannel.get_set_other _ _ hc, hu.ctrl, State.answerWith_ch]
    · rw [complete_iflag, PerChannel.get_set_other _ _ hc, hu.iflag, State.answerWith_iflag]

/-- After a reset no flag is set and no channel is Active (R26). -/
theorem reset_channel_idle (c : ChannelIx) :
    State.reset.iflag[c] = false ∧ ctrlBusy State.reset.ch[c].ctrl = false := by
  revert c
  decide

/-! ## The flags `if[c]` (R20, R25) -/

/-- A write of a group's interrupt register keeps a flag, or clears one of its group that it has a 1 for (R92, R94). -/
theorem writeInterrupt_iflag_cases (g : Fin 2) (v : Word) (s : State) (c : ChannelIx) :
    (writeInterrupt g v s).iflag[c] = s.iflag[c] ∨
      ((writeInterrupt g v s).iflag[c] = false ∧ c.val / 8 = g.val ∧ v.getLsbD (24 + c.val % 8) = true) := by
  have he : (writeInterrupt g v s).iflag[c] = acknowledged g v c s.iflag[c] := by simp [writeInterrupt]
  rw [he, acknowledged]
  split
  · rename_i ha
    simp only [Bool.and_eq_true, inGroup, decide_eq_true_eq] at ha
    exact .inr ⟨rfl, ha⟩
  · exact .inl rfl

/-- What an operation does to channel `c`'s flag: it keeps it, completes the channel, or clears it in one of three ways. -/
theorem Effect.iflag_cases {s t : State} {i : Instr} (h : Effect s i t) (c : ChannelIx) :
    t.iflag[c] = s.iflag[c] ∨ CompletedBy s i t c ∨ (t.iflag[c] = false ∧
      (i = .reset ∨ (∃ v : Word, i = .wr32Dicr v ∧ c.val < 8 ∧ v.getLsbD (24 + c.val) = true) ∨
        ∃ v : Word, i = .wr32Dicr2 v ∧ 8 ≤ c.val ∧ v.getLsbD (24 + (c.val - 8)) = true)) := by
  cases h with
  | wroteInterrupt g v hi =>
    rcases writeInterrupt_iflag_cases g v s c with hk | ⟨hf, hg, hv⟩
    · exact .inl hk
    · refine .inr (.inr ⟨hf, .inr (hi.imp ?_ ?_)⟩)
      · rintro ⟨rfl, rfl⟩
        have hc : c.val % 8 = c.val ∧ c.val < 8 := by omega
        exact ⟨v, rfl, hc.2, hc.1 ▸ hv⟩
      · rintro ⟨rfl, rfl⟩
        have hc : c.val % 8 = c.val - 8 ∧ 8 ≤ c.val := by omega
        exact ⟨v, rfl, hc.2, hc.1 ▸ hv⟩
  | wasReset hi => exact .inr (.inr ⟨(reset_channel_idle c).1, .inl hi⟩)
  | worked w u hw hi hu => exact .inl (by rw [hu.iflag, State.answerWith_iflag])
  | completed w u hw hi hu => exact (hu.complete_cases hw hi c).elim (.inr ∘ .inl) (.inl ∘ And.right)
  | _ => exact .inl (by simp)

/-- Settles O40: of what can happen to a flag, only a completion sets it, and it is cleared only in the ways listed. -/
theorem flagsChangeOnlyAsListed : Obligations.FlagsChangeOnlyAsListed := by
  intro s t i c h
  rcases (exec_effect h).iflag_cases c with hk | hc | ⟨hf, hi⟩
  · rw [hk]
    exact ⟨fun hs ht => (nomatch hs.symm.trans ht), fun hs ht => (nomatch hs.symm.trans ht)⟩
  · exact ⟨fun _ _ => ⟨hc.won, hc.idle, hc.byTick⟩, fun _ ht => (nomatch ht.symm.trans hc.flagged)⟩
  · exact ⟨fun _ ht => (nomatch hf.symm.trans ht), fun _ _ => hi⟩

/-! ## The busy bits (R18, R25) -/

/-- What an operation does to channel `c`'s control word: it keeps it, completes the channel, resets it or writes it. -/
theorem Effect.ctrl_cases {s t : State} {i : Instr} (h : Effect s i t) (c : ChannelIx) :
    t.ch[c].ctrl = s.ch[c].ctrl ∨ CompletedBy s i t c ∨ (i = .reset ∧ ctrlBusy t.ch[c].ctrl = false) ∨
      i = .wr32ChCtrl c t.ch[c].ctrl := by
  cases h with
  | wroteAddr w v hi => exact .inl (PerChannel.get_set_part Channel.ctrl s.ch { s.ch[w] with addr := v } rfl c)
  | wroteBcr w v hi => exact .inl (PerChannel.get_set_part Channel.ctrl s.ch { s.ch[w] with bcr := v } rfl c)
  | wroteCtrl w v hi =>
    rw [State.answerWith_ch, State.setCtrl_ch]
    by_cases hc : c = w
    · subst hc
      exact .inr (.inr (.inr (by rw [PerChannel.get_set_self, hi])))
    · exact .inl (by rw [PerChannel.get_set_other _ _ hc])
  | wasReset hi => exact .inr (.inr (.inl ⟨hi, (reset_channel_idle c).2⟩))
  | worked w u hw hi hu => exact .inl (by rw [hu.ctrl, State.answerWith_ch])
  | completed w u hw hi hu => exact (hu.complete_cases hw hi c).elim (.inr ∘ .inl) (.inl ∘ And.left)
  | _ => exact .inl (by simp)

/-- Settles O41: of what can happen to a control word, only its write sets the busy bit, and a completion, a reset or its
write clear it. -/
theorem busyChangesOnlyAsListed : Obligations.BusyChangesOnlyAsListed := by
  intro s t i c h
  rcases (exec_effect h).ctrl_cases c with hk | hc | ⟨hi, hf⟩ | hi
  · rw [hk]
    exact ⟨fun hs ht => (nomatch hs.symm.trans ht), fun hs ht => (nomatch hs.symm.trans ht)⟩
  · exact ⟨fun _ ht => (nomatch hc.idle.symm.trans ht),
      fun _ _ => .inr (.inr ⟨hc.won, hc.flagged, hc.byTick⟩)⟩
  · exact ⟨fun _ ht => (nomatch hf.symm.trans ht), fun _ _ => .inl hi⟩
  · exact ⟨fun _ ht => ⟨_, hi, ht⟩, fun _ ht => .inr (.inl ⟨_, hi, ht⟩)⟩

/-! ## The recorded level (R23, R119) -/

/-- The levels that the history gains between `s` and `u` are the record of the sink's change. -/
def RecordsLevel (s u : State) : Prop :=
  ∃ added : List Event, u.events = added ++ s.events ∧ added.filter Event.isLevel = irqRecord s.pending u.pending

theorem RecordsLevel.of_unchanged {s u : State} (he : u.events = s.events) (hp : u.pending = s.pending) :
    RecordsLevel s u := ⟨[], he, by rw [hp, irqRecord_self, List.filter_nil]⟩

/-- One output event, with the sink unchanged. -/
theorem RecordsLevel.of_event {s u : State} {e : Event} (he : u.events = e :: s.events) (hl : e.isLevel = false)
    (hp : u.pending = s.pending) : RecordsLevel s u := ⟨[e], he, by rw [hp, irqRecord_self]; simp [hl]⟩

/-- Announced changes that leave the sink alone may come before. -/
theorem RecordsLevel.after_announced {s u w : State} (ha : Announced s u) (hp : u.pending = s.pending)
    (h : RecordsLevel u w) : RecordsLevel s w := by
  obtain ⟨x, hx, hquiet, -⟩ := ha
  obtain ⟨y, hy, hlevels⟩ := h
  have hnil : x.filter Event.isLevel = [] := List.filter_eq_nil_iff.mpr fun e he => by simp [(hquiet e he).2]
  exact ⟨y ++ x, by rw [hy, hx, List.append_assoc], by rw [List.filter_append, hlevels, hnil, List.append_nil, hp]⟩

theorem State.setPending_recordsLevel (s : State) (l : Bool) : RecordsLevel s (s.setPending l) :=
  ⟨irqRecord s.pending l, rfl, filter_irqRecord _ _⟩

theorem complete_recordsLevel (c : ChannelIx) (s : State) : RecordsLevel s (complete c s) := by
  rw [complete_eq]
  exact ⟨completionEvents s c, rfl, completionEvents_levels s c⟩

/-- Every operation records the change of the level, and no other level. -/
theorem Effect.recordsLevel {s t : State} {i : Instr} (h : Effect s i t) : RecordsLevel s t := by
  cases h with
  | stored b a d hi hr => exact .of_event (e := .invalidate a d.width.bytes) (by simp) rfl (by simp)
  | forwarded a d hi => exact .of_event (e := .devRegWrite a d) rfl rfl rfl
  | worked c u hw hi hu => exact .after_announced hu.announced hu.pending (.of_unchanged rfl rfl)
  | completed c u hw hi hu => exact .after_announced hu.announced hu.pending (complete_recordsLevel c u)
  | wasReset hi => exact s.setPending_recordsLevel State.reset.pending
  | acknowledged hi => exact s.setPending_recordsLevel false
  | _ => exact .of_unchanged (by simp) (by simp)

/-- Settles O43: a step with an empty schedule records nothing, and every other is one operation's. -/
theorem historyRecordsTheLevel : Obligations.HistoryRecordsTheLevel := by
  intro s t h
  have hr : RecordsLevel s t := by
    rcases step_effect h with ⟨-, rfl⟩ | ⟨x, rest, i, -, he⟩
    · exact .of_unchanged rfl rfl
    · exact he.recordsLevel
  obtain ⟨added, he, hlevels⟩ := hr
  exact ⟨added, he, by simp only [hlevels, irqRecord, irqOut, eq_comm]⟩

end Sys2Proof.Machine
end

section
/-! The family of spec/20_memory.md: which addresses a region and a byte of memory have, what a change of memory announces, what
an access of RAM or CRAM sees, that the engine's byte accesses are the router's 8-bit rows, and that the inspector sees what a
bus read answers. -/

namespace Sys2Proof

/-! ## The regions by their bounds (R32, R33) -/

/-- All of `n` bytes from `a` lie between a region's first and last byte just where the two ends of the access do. -/
theorem bytes_between_iff {base size a n : Nat} (hs : 0 < size) (hn : 0 < n) :
    (∀ i, i < n → base ≤ a + i ∧ a + i ≤ base + size - 1) ↔ base ≤ a ∧ a + n ≤ base + size := by
  constructor
  · intro h
    have hfirst := h 0 hn
    have hlast := h (n - 1) (by omega)
    omega
  · intro h i hi
    omega

/-! ## The fields of a value and of a register (R37, R48) -/

/-- Byte `i` of the data of an access (R37 `MemWrite`). -/
theorem BusData.bytes_getElem? (d : BusData) {i : Nat} (hi : i < d.width.bytes) :
    d.bytes[i]? = some (BitVec.ofNat 8 (d.toNat / 2 ^ (8 * i))) := by
  rw [BusData.bytes, leBytes_getElem?, if_pos hi]

/-- A field of one bit, as a number. -/
theorem toNat_extractLsb'_one (v : Word) (k : Nat) : (v.extractLsb' k 1).toNat = (v.getLsbD k).toNat := by
  rw [BitVec.extractLsb'_toNat, BitVec.getLsbD, Nat.toNat_testBit, Nat.shiftRight_eq_div_pow]

end Sys2Proof

namespace Sys2Proof.Machine

/-! ## The region of an access and the address of a byte (R32, R33, R34) -/

/-- Under a well-formed configuration the decode of an access names the region that contains each of its bytes: the regions are
apart, so an access between the ends of one is between the ends of none that the decode tries before it. -/
theorem region_iff_inRegion {cfg : Config} (hwf : cfg.wf = true) {r : Region} (hr : r ≠ .unmapped) (a : Word) {n : Nat}
    (hn : 0 < n) : region cfg a n = r ↔ ∀ i, i < n → inRegion cfg r (a.toNat + i) := by
  rw [Config.wf_iff] at hwf
  rw [region_eq]
  cases r
  case unmapped => exact absurd rfl hr
  case' ram => refine Iff.trans ?_ (bytes_between_iff (show 0 < cfg.ramSize by omega) hn).symm
  case' cram => refine Iff.trans ?_ (bytes_between_iff (show 0 < cfg.cramSize by omega) hn).symm
  case' dev => refine Iff.trans ?_ (bytes_between_iff (show 0 < cfg.devSize by omega) hn).symm
  case' dma => refine Iff.trans ?_ (bytes_between_iff (show 0 < 512 by omega) hn).symm
  all_goals split_ifs <;> simp <;> omega

/-- Settles O1: each region but `unmapped` is named just where it contains every byte, so none is where each misses one. -/
theorem regionHoldsEveryByteOrIsUnmapped : Obligations.RegionHoldsEveryByteOrIsUnmapped := by
  intro cfg a w hwf
  have hholds : ∀ r : Region, r ≠ .unmapped →
      (region cfg a w.bytes = r ↔ ∀ i, i < w.bytes → inRegion cfg r (a.toNat + i)) :=
    fun r hr => region_iff_inRegion hwf hr a w.bytes_pos
  refine ⟨hholds, ⟨fun hu r => ?_, fun hmiss => ?_⟩, fun hwrap => ?_⟩
  · by_cases hr : r = .unmapped
    · exact ⟨0, w.bytes_pos, by simp [hr, inRegion]⟩
    · by_contra hall
      push Not at hall
      exact hr (((hholds r hr).mpr hall).symm.trans hu)
  · by_contra hu
    obtain ⟨i, hi, hout⟩ := hmiss (region cfg a w.bytes)
    exact hout ((hholds _ hu).mp rfl i hi)
  · by_contra hu
    have := region_no_wrap hu
    omega

/-- A memory has a byte, and its last one is at an address (R7). -/
theorem bank_bounds {cfg : Config} (hwf : cfg.wf = true) (b : Bank) :
    0 < b.size cfg ∧ (b.base cfg).toNat + b.size cfg ≤ 2 ^ 32 := by
  rw [Config.wf_iff] at hwf
  cases b <;> simp only [Bank.size, Bank.base] <;> omega

/-- Under a well-formed configuration an access lies in a memory's region just where it lies between its ends (R32). -/
theorem region_bank_iff {cfg : Config} (hwf : cfg.wf = true) (b : Bank) (a : Word) {n : Nat} (hn : 0 < n) :
    region cfg a n = b.region ↔ (b.base cfg).toNat ≤ a.toNat ∧ a.toNat + n ≤ (b.base cfg).toNat + b.size cfg := by
  rw [← bytes_between_iff (bank_bounds hwf b).1 hn]
  cases b
  · exact region_iff_inRegion hwf (r := .ram) (by decide) a hn
  · exact region_iff_inRegion hwf (r := .cram) (by decide) a hn

/-- Settles O2: the base plus `o` does not wrap and lies in the region, and an address there is known by its index. -/
theorem eachMemoryByteHasOneAddress : Obligations.EachMemoryByteHasOneAddress := by
  intro cfg b o hwf ho
  obtain ⟨-, hend⟩ := bank_bounds hwf b
  have ha : (b.base cfg + BitVec.ofNat 32 o).toNat = (b.base cfg).toNat + o := by
    rw [BitVec.toNat_add, BitVec.toNat_ofNat]
    omega
  have hr : region cfg (b.base cfg + BitVec.ofNat 32 o) 1 = b.region :=
    (region_bank_iff hwf b _ Nat.one_pos).mpr (by omega)
  have hoff : bankOffset cfg b (b.base cfg + BitVec.ofNat 32 o) = o := by
    rw [bankOffset, ha]
    omega
  exact ⟨_, ⟨ha, hr, hoff⟩, fun a' hr' hoff' => bankOffset_injective hr' hr (hoff'.trans hoff.symm)⟩

/-! ## A change of memory and its announcement (R46, R47) -/

/-- Every byte of memory that reads differently in `u` than in `s` is named by the range of an `Invalidate` that the history
gains between them (R46). -/
def CoversChanges (s u : State) : Prop :=
  ∃ added : List Event, u.events = added ++ s.events ∧
    ∀ (b : Bank) (o : Nat), u.byteAt b o ≠ s.byteAt b o →
      ∃ (a : Word) (n : Nat), Event.invalidate a n ∈ added ∧ region s.cfg a n = b.region ∧
        bankOffset s.cfg b a ≤ o ∧ o < bankOffset s.cfg b a + n

/-- A longer history covers a change of nothing. -/
theorem CoversChanges.of_unchanged {s u : State} {added : List Event} (he : u.events = added ++ s.events)
    (hb : ∀ b o, u.byteAt b o = s.byteAt b o) : CoversChanges s u := ⟨added, he, fun b o h => absurd (hb b o) h⟩

/-- The engine announces each byte it stores by a range of that byte alone (R109). -/
theorem Announced.coversChanges {s u : State} (h : Announced s u) : CoversChanges s u := by
  obtain ⟨added, he, -, hb⟩ := h
  refine ⟨added, he, fun b o hne => ?_⟩
  obtain ⟨a, hmem, hr, ho⟩ := hb b o hne
  exact ⟨a, 1, hmem, hr, by omega, by omega⟩

/-- Events and other fields may change after, if no byte of memory does. -/
theorem CoversChanges.then_unchanged {s u v : State} {more : List Event} (h : CoversChanges s u)
    (he : v.events = more ++ u.events) (hb : ∀ b o, v.byteAt b o = u.byteAt b o) : CoversChanges s v := by
  obtain ⟨added, hadded, hcover⟩ := h
  refine ⟨more ++ added, by rw [he, hadded, List.append_assoc], fun b o hne => ?_⟩
  rw [hb] at hne
  obtain ⟨a, n, hmem, hrange⟩ := hcover b o hne
  exact ⟨a, n, List.mem_append_right _ hmem, hrange⟩

/-- A byte that a store does not reach reads as before. -/
theorem State.byteAt_storeBytes_outside (s : State) {b b' : Bank} {o o' : Nat} {xs : List Byte}
    (h : b' = b → ¬ (o ≤ o' ∧ o' < o + xs.length)) : (s.storeBytes b o xs).byteAt b' o' = s.byteAt b' o' := by
  rw [State.byteAt_storeBytes]
  split
  · rename_i hin
    have := h hin.1
    rw [List.getElem?_eq_none (by omega), Option.getD_none]
  · rfl

/-- A store into RAM or CRAM announces the range it is made to (R46, R72, R74). -/
theorem stored_coversChanges {s : State} {b : Bank} {a : Word} {d : BusData}
    (hr : region s.cfg a d.width.bytes = b.region) : CoversChanges s
      (((s.storeBytes b (bankOffset s.cfg b a) d.bytes).emit (.invalidate a d.width.bytes)).answerWith
        (some (.write .ok))) := by
  refine ⟨[.invalidate a d.width.bytes], by simp, fun b' o hne => ?_⟩
  by_contra hout
  refine hne ?_
  rw [State.answerWith_byteAt, State.emit_byteAt]
  refine s.byteAt_storeBytes_outside fun hb hin => hout ?_
  subst hb
  rw [BusData.bytes_length] at hin
  exact ⟨a, _, List.mem_singleton_self _, hr, hin⟩

@[simp] theorem complete_events (c : ChannelIx) (s : State) :
    (complete c s).events = completionEvents s c ++ s.events := by rw [complete_eq]

@[simp] theorem complete_byteAt (c : ChannelIx) (s : State) (b : Bank) (o : Nat) :
    (complete c s).byteAt b o = s.byteAt b o :=
  State.byteAt_congr (complete_bank c s b) (by rw [complete_eq]) o

@[simp] theorem writePriority_byteAt (g : Fin 2) (v : Word) (s : State) (b : Bank) (o : Nat) :
    (writePriority g v s).byteAt b o = s.byteAt b o :=
  State.byteAt_congr (writePriority_bank g v s b) (writePriority_memDraw g v s) o

@[simp] theorem writeInterrupt_byteAt (g : Fin 2) (v : Word) (s : State) (b : Bank) (o : Nat) :
    (writeInterrupt g v s).byteAt b o = s.byteAt b o :=
  State.byteAt_congr (writeInterrupt_bank g v s b) (writeInterrupt_memDraw g v s) o

/-- Every operation that draws no memory anew announces what it changes. -/
theorem Effect.coversChanges {s t : State} {i : Instr} (h : Effect s i t) (hd : t.memDraw = s.memDraw) :
    CoversChanges s t := by
  cases h with
  | answered d ans hle => exact .of_unchanged (added := []) rfl fun b o => by cases b <;> rfl
  | stored b a d hi hr => exact stored_coversChanges hr
  | forwarded a d hi => exact .of_unchanged (added := [.devRegWrite a d]) rfl fun b o => by simp
  | worked c u hw hi hu => exact hu.announced.coversChanges.then_unchanged (more := []) rfl fun _ _ => rfl
  | completed c u hw hi hu =>
    exact hu.announced.coversChanges.then_unchanged (complete_events c u) (complete_byteAt c u)
  | wasReset hi => exact absurd hd (Nat.succ_ne_self _)
  | acknowledged hi => exact .of_unchanged (added := irqRecord s.pending false) rfl fun b o => by simp
  | _ => exact .of_unchanged (added := []) (by simp) fun b o => by simp

/-- Settles O39: a step with an empty schedule changes nothing, and every other is one operation's. -/
theorem everyMemoryChangeIsAnnounced : Obligations.EveryMemoryChangeIsAnnounced := by
  intro s t b o h hd hne
  have hcover : CoversChanges s t := by
    rcases step_effect h with ⟨-, rfl⟩ | ⟨x, rest, i, -, he⟩
    · exact .of_unchanged (added := []) rfl fun _ _ => rfl
    · exact he.coversChanges hd
  obtain ⟨added, he, hb⟩ := hcover
  obtain ⟨a, n, hmem, hrange⟩ := hb b o hne
  exact ⟨added, a, n, he, hmem, hrange⟩

/-! ## The bytes an access of RAM or CRAM stores and reads (R36, R37) -/

@[simp] theorem State.readBytes_length (s : State) (b : Bank) (o n : Nat) : (s.readBytes b o n).length = n := by
  induction n generalizing o with
  | zero => rfl
  | succ n ih => rw [State.readBytes, List.length_cons, ih]

/-- Byte `i` of the bytes read (R37 `MemRead`). -/
theorem State.readBytes_getElem? (s : State) (b : Bank) {o n i : Nat} (hi : i < n) :
    (s.readBytes b o n)[i]? = some (s.byteAt b (o + i)) := by
  induction n generalizing o i with
  | zero => omega
  | succ n ih =>
    cases i with
    | zero => rfl
    | succ i =>
      rw [State.readBytes, List.getElem?_cons_succ, ih (Nat.lt_of_succ_lt_succ hi), Nat.add_assoc, Nat.add_comm 1]

/-- Byte `i` of the value a read of memory answers is the byte of memory at its place (R35, R37). -/
theorem State.readBytes_value_byte (s : State) (b : Bank) (o : Nat) {w : Width} {i : Nat} (hi : i < w.bytes) :
    (BusData.ofNat w (leValue (s.readBytes b o w.bytes))).toNat / 2 ^ (8 * i) % 256 = (s.byteAt b (o + i)).toNat := by
  have hlt := leValue_lt (s.readBytes b o w.bytes)
  rw [State.readBytes_length] at hlt
  rw [BusData.toNat_ofNat, Nat.mod_eq_of_lt hlt, leValue_byte, s.readBytes_getElem? b hi, Option.getD_some]

/-- The byte at index `o'` after the data of an access is stored from index `o` (R36, R37). -/
theorem State.byteAt_storeData (s : State) (b : Bank) (o : Nat) (d : BusData) (o' : Nat) :
    ((s.storeBytes b o d.bytes).byteAt b o').toNat =
      if o ≤ o' ∧ o' < o + d.width.bytes then d.toNat / 2 ^ (8 * (o' - o)) % 256 else (s.byteAt b o').toNat := by
  split
  · rename_i hin
    rw [State.byteAt_storeBytes, if_pos ⟨rfl, hin.1⟩, BusData.bytes_getElem? d (by omega), Option.getD_some,
      BitVec.toNat_ofNat]
  · rename_i hout
    rw [s.byteAt_storeBytes_outside fun _ => by rwa [BusData.bytes_length]]

/-! ## The rows of RAM and CRAM -/

/-- A read row of a memory is the shared read (R71, R73). -/
theorem exec_readRow_bank (b : Bank) (w : Width) (a : Word) (s : State) :
    exec (readRow b.region w a) s = readBank b w a s := by
  cases b <;> cases w <;> rfl

/-- A write row of a memory is the shared write (R72, R74). -/
theorem exec_writeRow_bank (b : Bank) (a : Word) (d : BusData) (s : State) :
    exec (writeRow b.region a d) s = writeBank b a d s := by
  cases b <;> cases d <;> rfl

theorem readBank_inside {b : Bank} {w : Width} {a : Word} {s : State} (hr : region s.cfg a w.bytes = b.region) :
    readBank b w a s = .next (s.answerWith (some (.read .ok
      (BusData.ofNat w (leValue (s.readBytes b (bankOffset s.cfg b a) w.bytes)))))) := if_pos hr

theorem writeBank_inside {b : Bank} {a : Word} {d : BusData} {s : State}
    (hr : region s.cfg a d.width.bytes = b.region) :
    writeBank b a d s = .next (((s.storeBytes b (bankOffset s.cfg b a) d.bytes).emit
      (.invalidate a d.width.bytes)).answerWith (some (.write .ok))) := if_pos hr

/-- Settles O7: the read answers the bytes at its indexes, and the write has left its own bytes at its indexes. -/
theorem mixedWidthsSeeTheSameBytes : Obligations.MixedWidthsSeeTheSameBytes := by
  intro s b a d a' w hw hr
  refine ⟨_, _, _, (exec_writeRow_bank b a d s).trans (writeBank_inside hw),
    (exec_readRow_bank b w a' _).trans (readBank_inside (by simpa using hr)), rfl, BusData.ofNat_width _ _, ?_⟩
  intro i hi
  obtain ⟨hbase, -, -⟩ := region_bank hw
  obtain ⟨hbase', -, -⟩ := region_bank hr
  rw [State.readBytes_value_byte _ b _ hi, State.answerWith_byteAt, State.emit_byteAt, State.byteAt_storeData]
  simp only [State.answerWith_cfg, State.emit_cfg, State.storeBytes_cfg]
  have hplace : bankOffset s.cfg b a' + i - bankOffset s.cfg b a = a'.toNat + i - a.toNat := by
    unfold bankOffset
    omega
  have hin : bankOffset s.cfg b a ≤ bankOffset s.cfg b a' + i ∧
      bankOffset s.cfg b a' + i < bankOffset s.cfg b a + d.width.bytes ↔
      a.toNat ≤ a'.toNat + i ∧ a'.toNat + i < a.toNat + d.width.bytes := by
    unfold bankOffset
    omega
  simp only [hplace, hin]

/-! ## The engine's byte accesses as rows (R47, R109) -/

/-- The status of an access of 8 bits, by its region (R122): the DMA window rejects it (R97, R98). -/
def byteStatus : Region → Status
  | .ram => .ok
  | .cram => .ok
  | .dev => .ok
  | .dma => .reject
  | .unmapped => .unmapped

/-- The router's row for a read of 8 bits: in the DMA window too it is the region's one row (R97). -/
theorem decodeRead_byte (cfg : Config) (a : Word) : decodeRead cfg .w8 a = readRow (region cfg a 1) .w8 a := by
  unfold decodeRead
  simp only [Width.bytes]
  cases region cfg a 1 <;> rfl

/-- The router's row for a write of 8 bits (R98). -/
theorem decodeWrite_byte (cfg : Config) (a : Word) (x : Byte) :
    decodeWrite cfg a (.b8 x) = writeRow (region cfg a 1) a (.b8 x) := by
  unfold decodeWrite
  simp only [BusData.width, Width.bytes]
  cases region cfg a 1 <;> rfl

/-- A byte read of RAM or CRAM answers that byte. -/
theorem readBank_byte {b : Bank} {a : Word} {s : State} (hr : region s.cfg a 1 = b.region) :
    readBank b .w8 a s = .next (s.answerWith (some (.read .ok (.b8 (s.byteAt b (bankOffset s.cfg b a)))))) := by
  rw [readBank_inside hr]
  simp [Width.bytes, State.readBytes, leValue, BusData.ofNat]

/-- A read of 8 bits answers the byte the engine takes and leaves the state the engine leaves (R109). -/
theorem exec_readRow_byte (s : State) (a : Word) :
    exec (readRow (region s.cfg a 1) .w8 a) s =
      .next ((busReadByte a s).2.answerWith (some (.read (byteStatus (region s.cfg a 1)) (.b8 (busReadByte a s).1)))) := by
  unfold busReadByte
  split <;> rename_i hr <;> rw [hr]
  · exact readBank_byte (b := .ram) hr
  · exact readBank_byte (b := .cram) hr
  · exact if_pos (decide_eq_true hr)
  · exact if_pos (by simp [badAccess, hr, Width.bytes])
  · exact if_pos (decide_eq_true hr)

/-- A write of 8 bits leaves the state the engine leaves (R109). -/
theorem exec_writeRow_byte (s : State) (a : Word) (x : Byte) :
    exec (writeRow (region s.cfg a 1) a (.b8 x)) s =
      .next ((busWriteByte a x s).answerWith (some (.write (byteStatus (region s.cfg a 1))))) := by
  have hx : (BusData.b8 x).bytes = [x] := by simp [BusData.bytes, BusData.width, Width.bytes, leBytes, BusData.toNat]
  unfold busWriteByte
  split <;> rename_i hr <;> rw [hr]
  · exact hx ▸ writeBank_inside (b := .ram) (d := .b8 x) hr
  · exact hx ▸ writeBank_inside (b := .cram) (d := .b8 x) hr
  · exact if_pos hr
  · exact if_pos (by simp [badAccess, hr, Width.bytes])
  · exact if_pos (decide_eq_true hr)

/-- Settles O8: the router's row for 8 bits is the region's, and that row does what the engine does. -/
theorem engineAccessesAreBusAccesses : Obligations.EngineAccessesAreBusAccesses := by
  refine ⟨fun s a => ⟨byteStatus (region s.cfg a 1), ?_⟩, fun s a x => ⟨byteStatus (region s.cfg a 1), ?_⟩⟩
  · rw [decodeRead_byte]
    exact exec_readRow_byte s a
  · rw [decodeWrite_byte]
    exact exec_writeRow_byte s a x

/-! ## What an inspector sees (R48) -/

/-- Bit `k` of the nibble of a channel: its priority below its enable (R60). -/
theorem packPriority_nibble (g : Fin 2) (prio : PerChannel (BitVec 3)) (en : PerChannel Bool) (i : Fin 8) {k : Nat}
    (hk : k < 4) : (packPriority g prio en).getLsbD (4 * i.val + k) =
      if k = 3 then en[groupChannel g i] else prio[groupChannel g i].getLsbD k := by
  have hi : (⟨(4 * i.val + k) / 4, by omega⟩ : Fin 8) = i := Fin.ext (by simp only; omega)
  have hmod : (4 * i.val + k) % 4 = k := by omega
  rw [packPriority_getLsbD g prio en _ (by omega)]
  simp only [hi, hmod]

/-- The low bits of the nibble of a channel are its priority (R60). -/
theorem packPriority_prio (g : Fin 2) (prio : PerChannel (BitVec 3)) (en : PerChannel Bool) (i : Fin 8) :
    (packPriority g prio en).extractLsb' (4 * i.val) 3 = prio[groupChannel g i] := by
  apply BitVec.eq_of_getLsbD_eq
  intro k hk
  rw [BitVec.getLsbD_extractLsb', packPriority_nibble g prio en i (by omega), if_neg (by omega), decide_eq_true hk,
    Bool.true_and]

/-- The enable and the flag of a channel are at its place in the upper two bytes (R61). -/
theorem packInterrupt_ie_iflag (g : Fin 2) (ie iflag : PerChannel Bool) (mie : Bool) (i : Fin 8) :
    (packInterrupt g ie iflag mie).getLsbD (16 + i.val) = ie[groupChannel g i] ∧
      (packInterrupt g ie iflag mie).getLsbD (24 + i.val) = iflag[groupChannel g i] := by
  have hie : (⟨(16 + i.val) % 8, by omega⟩ : Fin 8) = i := Fin.ext (by simp only; omega)
  have hflag : (⟨(24 + i.val) % 8, by omega⟩ : Fin 8) = i := Fin.ext (by simp only; omega)
  rw [packInterrupt_getLsbD g ie iflag mie _ (by omega), packInterrupt_getLsbD g ie iflag mie _ (by omega),
    if_neg (by omega), if_pos (by omega), if_pos (by omega)]
  simp only [hie, hflag, and_self]

/-- Bit 15 of DICR is the master enable (R61). -/
theorem packInterrupt_mie (ie iflag : PerChannel Bool) (mie : Bool) :
    (packInterrupt 0 ie iflag mie).getLsbD 15 = mie := by
  rw [packInterrupt_getLsbD 0 ie iflag mie 15 (by omega)]
  simp

/-- What a priority register answers is what an inspector sees of its group. -/
theorem inspect_packPriority (s : State) (g : Fin 2) (i : Fin 8) :
    ((packPriority g s.prio s.en).extractLsb' (4 * i.val) 3).toNat = inspect s (.prio (groupChannel g i)) ∧
      ((packPriority g s.prio s.en).extractLsb' (4 * i.val + 3) 1).toNat = inspect s (.en (groupChannel g i)) := by
  rw [packPriority_prio, toNat_extractLsb'_one, packPriority_nibble g s.prio s.en i (by omega), if_pos rfl]
  exact ⟨rfl, rfl⟩

/-- What an interrupt register answers is what an inspector sees of its group and, in DICR, of the master enable. -/
theorem inspect_packInterrupt (s : State) (g : Fin 2) :
    (∀ i : Fin 8,
      ((packInterrupt g s.ie s.iflag s.mie).extractLsb' (16 + i.val) 1).toNat = inspect s (.ie (groupChannel g i)) ∧
      ((packInterrupt g s.ie s.iflag s.mie).extractLsb' (24 + i.val) 1).toNat = inspect s (.iflag (groupChannel g i))) ∧
    (g = 0 → ((packInterrupt g s.ie s.iflag s.mie).extractLsb' 15 1).toNat = inspect s .mie) := by
  refine ⟨fun i => ?_, ?_⟩
  · obtain ⟨hie, hflag⟩ := packInterrupt_ie_iflag g s.ie s.iflag s.mie i
    rw [toNat_extractLsb'_one, toNat_extractLsb'_one, hie, hflag]
    exact ⟨rfl, rfl⟩
  · rintro rfl
    rw [toNat_extractLsb'_one, packInterrupt_mie]
    rfl

/-- Settles O47: a register read answers the register or the packed view of its elements, and a byte read the byte. -/
theorem inspectorAgreesWithBusReads : Obligations.InspectorAgreesWithBusReads := by
  intro s c b a
  refine ⟨⟨_, _, rfl, rfl, rfl⟩, ⟨_, _, rfl, rfl, rfl⟩, ⟨_, _, rfl, rfl, rfl⟩, ?_, ?_, rfl, fun hr => ?_⟩
  · exact List.forall_mem_cons.mpr ⟨⟨_, _, rfl, rfl, inspect_packPriority s 0⟩,
      List.forall_mem_singleton.mpr ⟨_, _, rfl, rfl, inspect_packPriority s 1⟩⟩
  · exact List.forall_mem_cons.mpr ⟨⟨_, _, rfl, rfl, inspect_packInterrupt s 0⟩,
      List.forall_mem_singleton.mpr ⟨_, _, rfl, rfl, inspect_packInterrupt s 1⟩⟩
  · exact ⟨_, _, (exec_readRow_bank b .w8 a s).trans (readBank_byte hr), rfl, rfl⟩

end Sys2Proof.Machine
end

section
/-! The family of spec/30_encoding.md, the records: what the decoder answers for each format, and that it accepts the
records of the four formats and no other bytes. -/

namespace Sys2Proof

open Machine

/-! ## Bus transactions (R50) -/

/-- A bus transaction `(kind, w, a, v)` (R50). The width of a write is its data's. -/
inductive Transaction where
  | read (w : Width) (a : Word)
  | write (a : Word) (d : BusData)

namespace Transaction

/-- `kind` (R50). -/
def kind : Transaction → Kind
  | read _ _ => .read
  | write _ _ => .write

/-- `w` (R50). -/
def width : Transaction → Width
  | read w _ => w
  | write _ d => d.width

/-- `a` (R50). -/
def addr : Transaction → Word
  | read _ a => a
  | write a _ => a

/-- The row the router performs (R52). -/
def row (cfg : Config) : Transaction → Instr
  | read w a => decodeRead cfg w a
  | write a d => decodeWrite cfg a d

/-- The record (log entry 6). -/
def record : Transaction → List Byte
  | read w a => readRecord w a
  | write a d => writeRecord a d

/-- The row of a region; for the DMA window the BADACCESS row. -/
def regionRow (r : Region) : Transaction → Instr
  | read w a => readRow r w a
  | write a d => writeRow r a d

end Transaction

/-! ## The word at the head of a record -/

@[simp] theorem ofNat_leValue_leBytes (a : Word) : BitVec.ofNat 32 (leValue (leBytes 4 a.toNat)) = a := by
  apply BitVec.eq_of_toNat_eq
  rw [leValue_leBytes, BitVec.toNat_ofNat]
  omega

/-- Five bytes or more are a record of the word and the header they hold. -/
theorem exists_recordBytes (b0 b1 b2 b3 h : Byte) (rest : List Byte) :
    ∃ word, b0 :: b1 :: b2 :: b3 :: h :: rest = recordBytes word h.toNat rest := by
  refine ⟨BitVec.ofNat 32 (leValue [b0, b1, b2, b3]), ?_⟩
  rw [recordBytes, BitVec.toNat_ofNat, Nat.mod_eq_of_lt (show _ < 2 ^ 32 from leValue_lt _), BitVec.ofNat_toNat,
    BitVec.setWidth_eq]
  exact (congrArg (· ++ h :: rest) (leBytes_leValue [b0, b1, b2, b3])).symm

/-! ## The decoder, format by format -/

theorem decode_busRecord (cfg : Config) (word : Word) (rest : List Byte) {h : Nat} (hh : h < 8) :
    decode cfg (recordBytes word h rest) = decodeBus cfg (h % 2) (widthOfCode (h / 2 % 4)) word rest := by
  conv_rhs => rw [← ofNat_leValue_leBytes word]
  interval_cases h <;> rfl

theorem decode_portRecord (cfg : Config) (word : Word) (rest : List Byte) :
    decode cfg (recordBytes word 8 rest) = decodePort word rest := by
  conv_rhs => rw [← ofNat_leValue_leBytes word]
  rfl

theorem decode_unitRecord (cfg : Config) (word : Word) (rest : List Byte) :
    decode cfg (recordBytes word 16 rest) = decodeChannel rest (decodeUnit · word) := by
  conv_rhs => rw [← ofNat_leValue_leBytes word]
  rfl

theorem decode_tagRecord (cfg : Config) (word : Word) (rest : List Byte) :
    decode cfg (recordBytes word 24 rest) = decodeChannel rest (decodeTag · word) := by
  conv_rhs => rw [← ofNat_leValue_leBytes word]
  rfl

/-- The headers of the four formats are the ones the decoder accepts (log entry 6). -/
theorem header_of_decode_ok {cfg : Config} {word : Word} {h : Byte} {rest : List Byte} {i : Instr}
    (hd : decode cfg (recordBytes word h.toNat rest) = .ok i) :
    h.toNat < 8 ∨ h.toNat = 8 ∨ h.toNat = 16 ∨ h.toNat = 24 := by
  simp only [recordBytes, leBytes, List.cons_append, List.nil_append, decode, BitVec.ofNat_toNat,
    BitVec.setWidth_eq] at hd
  split at hd
  case h_1 => omega
  case h_5 => cases hd
  all_goals
    split_ifs at hd
    omega

theorem Width.code_lt (w : Width) : w.code < 4 := by cases w <;> decide

theorem code_widthOfCode {k : Nat} (h : k < 4) : (widthOfCode k).code = k := by interval_cases k <;> rfl

theorem decodeBus_write (cfg : Config) (a : Word) (d : BusData) :
    decodeBus cfg 1 d.width a d.bytes = .ok (decodeWrite cfg a d) := by
  simp [decodeBus, BusData.ofNat_leValue_bytes]

/-- A read has no data; a write has the bytes of its width. -/
theorem decodeBus_ok {cfg : Config} {k : Nat} {w : Width} {a : Word} {rest : List Byte} {i : Instr}
    (h : decodeBus cfg k w a rest = .ok i) :
    (k = 0 ∧ rest = [] ∧ i = decodeRead cfg w a) ∨
      (k ≠ 0 ∧ ∃ d : BusData, d.width = w ∧ d.bytes = rest ∧ i = decodeWrite cfg a d) := by
  unfold decodeBus at h
  split_ifs at h with hk hr hlt hgt
  · cases h
    exact .inl ⟨hk, List.length_eq_zero_iff.mp hr, rfl⟩
  · cases h
    exact .inr ⟨hk, _, BusData.ofNat_width w _, BusData.bytes_ofNat_leValue w rest (by omega), rfl⟩

theorem decodeChannel_ok_iff {rest : List Byte} {row : ChannelIx → Instr} {i : Instr} :
    decodeChannel rest row = .ok i ↔ ∃ c : ChannelIx, rest = [BitVec.ofNat 8 c.val] ∧ row c = i := by
  constructor
  · intro h
    unfold decodeChannel at h
    split at h
    · cases h
    · split_ifs at h with hb
      cases h
      exact ⟨_, by simp, rfl⟩
    · cases h
  · rintro ⟨c, rfl, rfl⟩
    have hc : (BitVec.ofNat 8 c.val).toNat = c.val := by
      rw [BitVec.toNat_ofNat]
      omega
    simp [decodeChannel, hc]

/-! ## What the decoder accepts -/

/-- The record stands for the operation under a configuration (R49, log entry 6). -/
inductive RecordOf (cfg : Config) : List Byte → Instr → Prop where
  | bus (x : Transaction) : RecordOf cfg x.record (x.row cfg)
  | tick : RecordOf cfg (portRecord 0#32) .tick
  | reset : RecordOf cfg (portRecord 1#32) .reset
  | intack : RecordOf cfg (portRecord 2#32) .intack
  | unit (c : ChannelIx) (ctrl : Word) : RecordOf cfg (unitRecord c ctrl) (decodeUnit c ctrl)
  | tag (c : ChannelIx) (tag : Word) : RecordOf cfg (tagRecord c tag) (decodeTag c tag)

theorem decode_record (cfg : Config) (x : Transaction) : decode cfg x.record = .ok (x.row cfg) := by
  have hc := x.width.code_lt
  cases x with
  | read w a =>
    rw [Transaction.width] at hc
    refine (decode_busRecord cfg a [] (by omega)).trans ?_
    rw [show 2 * w.code % 2 = 0 by omega, show 2 * w.code / 2 % 4 = w.code by omega, widthOfCode_code]
    rfl
  | write a d =>
    rw [Transaction.width] at hc
    refine (decode_busRecord cfg a d.bytes (by omega)).trans ?_
    rw [show (1 + 2 * d.width.code) % 2 = 1 by omega, show (1 + 2 * d.width.code) / 2 % 4 = d.width.code by omega,
      widthOfCode_code]
    exact decodeBus_write cfg a d

theorem RecordOf.decode_eq {cfg : Config} {record : List Byte} {i : Instr} (h : RecordOf cfg record i) :
    decode cfg record = .ok i := by
  cases h with
  | bus x => exact decode_record cfg x
  | tick => exact decode_portRecord cfg _ []
  | reset => exact decode_portRecord cfg _ []
  | intack => exact decode_portRecord cfg _ []
  | unit c ctrl => exact (decode_unitRecord cfg ctrl _).trans (decodeChannel_ok_iff.mpr ⟨c, rfl, rfl⟩)
  | tag c tag => exact (decode_tagRecord cfg tag _).trans (decodeChannel_ok_iff.mpr ⟨c, rfl, rfl⟩)

theorem RecordOf.of_decodeBus {cfg : Config} {word : Word} {rest : List Byte} {i : Instr} {h : Nat} (hh : h < 8)
    (hd : decodeBus cfg (h % 2) (widthOfCode (h / 2 % 4)) word rest = .ok i) :
    RecordOf cfg (recordBytes word h rest) i := by
  have hc := code_widthOfCode (k := h / 2 % 4) (by omega)
  obtain ⟨hk, rfl, rfl⟩ | ⟨hk, d, hw, rfl, rfl⟩ := decodeBus_ok hd
  · have he : h = 2 * (widthOfCode (h / 2 % 4)).code := by omega
    conv in recordBytes word h [] => rw [he]
    exact .bus (.read (widthOfCode (h / 2 % 4)) word)
  · have he : h = 1 + 2 * d.width.code := by rw [hw]; omega
    rw [he]
    exact .bus (.write word d)

theorem RecordOf.of_decodePort {cfg : Config} {word : Word} {rest : List Byte} {i : Instr}
    (hd : decodePort word rest = .ok i) : RecordOf cfg (recordBytes word 8 rest) i := by
  unfold decodePort at hd
  split_ifs at hd with hr ht hs hi <;> cases hd <;> rw [List.length_eq_zero_iff.mp (not_not.mp hr)]
  · exact ht ▸ .tick
  · exact hs ▸ .reset
  · exact hi ▸ .intack

/-- The decoder accepts the records of the operations and no other bytes (log entry 6). -/
theorem decode_ok_iff {cfg : Config} {record : List Byte} {i : Instr} :
    decode cfg record = .ok i ↔ RecordOf cfg record i := by
  refine ⟨fun hd => ?_, RecordOf.decode_eq⟩
  match record, hd with
  | b0 :: b1 :: b2 :: b3 :: h :: rest, hd =>
    obtain ⟨word, he⟩ := exists_recordBytes b0 b1 b2 b3 h rest
    rw [he] at hd ⊢
    obtain hh | hh | hh | hh := header_of_decode_ok hd
    · rw [decode_busRecord cfg word rest hh] at hd
      exact .of_decodeBus hh hd
    · rw [hh, decode_portRecord] at hd
      rw [hh]
      exact .of_decodePort hd
    · rw [hh, decode_unitRecord] at hd
      obtain ⟨c, rfl, rfl⟩ := decodeChannel_ok_iff.mp hd
      rw [hh]
      exact .unit c word
    · rw [hh, decode_tagRecord] at hd
      obtain ⟨c, rfl, rfl⟩ := decodeChannel_ok_iff.mp hd
      rw [hh]
      exact .tag c word
  | [], hd | [_], hd | [_, _], hd | [_, _, _], hd | [_, _, _, _], hd => cases hd

end Sys2Proof
end

section
/-! The family of spec/30_encoding.md, the rows: which row the router performs, when a row is well formed, and its record.
A bus transaction that reaches a register has the row of its offset, every other one the row of its region. -/

namespace Sys2Proof

open Machine

/-! ## Rows by region (R52) -/

namespace Transaction

/-- A 32-bit access of the DMA window at a multiple of 4: the one kind that reaches the registers (R53). -/
def toRegister (cfg : Config) (x : Transaction) : Prop :=
  region cfg x.addr x.width.bytes = .dma ∧ x.width = .w32 ∧ dmaOffset cfg x.addr % 4 = 0

theorem encode_regionRow (cfg : Config) (x : Transaction) (r : Region) : encode cfg (x.regionRow r) = x.record := by
  cases x with
  | read w a => cases r <;> cases w <;> rfl
  | write a d => cases r <;> cases d <;> rfl

theorem wellFormed_regionRow_dma (cfg : Config) (x : Transaction) :
    WellFormed cfg (x.regionRow .dma) = badAccess cfg x.width x.addr := by
  cases x with
  | read w a => cases w <;> rfl
  | write a d => cases d <;> rfl

theorem wellFormed_regionRow_of_ne_dma (cfg : Config) (x : Transaction) {r : Region} (h : r ≠ .dma) :
    WellFormed cfg (x.regionRow r) = decide (region cfg x.addr x.width.bytes = r) := by
  cases r with
  | dma => exact absurd rfl h
  | _ =>
    cases x with
    | read w a => cases w <;> rfl
    | write a d => cases d <;> rfl

/-- A region's row is well formed where the region holds the access, unless the access reaches a register. -/
theorem wellFormed_regionRow (cfg : Config) (x : Transaction) (r : Region) :
    WellFormed cfg (x.regionRow r) = true ↔ region cfg x.addr x.width.bytes = r ∧ ¬ x.toRegister cfg := by
  by_cases h : r = .dma
  · subst h
    rw [wellFormed_regionRow_dma, badAccess, toRegister]
    simp only [Bool.and_eq_true, Bool.or_eq_true, decide_eq_true_eq]
    tauto
  · rw [wellFormed_regionRow_of_ne_dma cfg x h, decide_eq_true_eq]
    exact ⟨fun hr => ⟨hr, fun ⟨hd, _⟩ => h (hr.symm.trans hd)⟩, And.left⟩

/-- Where no register is reached, the router performs the row of the access's region (R52, R97, R98). -/
theorem row_eq_regionRow {cfg : Config} {x : Transaction} (h : ¬ x.toRegister cfg) :
    x.row cfg = x.regionRow (region cfg x.addr x.width.bytes) := by
  cases x with
  | read w a =>
    change decodeRead cfg w a = readRow (region cfg a w.bytes) w a
    unfold decodeRead
    cases hr : region cfg a w.bytes with
    | dma =>
      cases w with
      | w32 => exact if_pos fun h4 => h ⟨hr, rfl, h4⟩
      | _ => rfl
    | _ => cases w <;> rfl
  | write a d =>
    change decodeWrite cfg a d = writeRow (region cfg a d.width.bytes) a d
    unfold decodeWrite
    cases hr : region cfg a d.width.bytes with
    | dma =>
      cases d with
      | b32 v => exact if_pos fun h4 => h ⟨hr, rfl, h4⟩
      | _ => rfl
    | _ => cases d <;> rfl

theorem row_of_wellFormed {cfg : Config} {x : Transaction} {r : Region}
    (h : WellFormed cfg (x.regionRow r) = true) : x.row cfg = x.regionRow r := by
  obtain ⟨hr, hx⟩ := (wellFormed_regionRow cfg x r).mp h
  rw [row_eq_regionRow hx, hr]

end Transaction

/-! ## Rows of the register map (R53, R54) -/

/-- A 32-bit read, or a 32-bit write of `v`. -/
inductive RegisterAccess where
  | read
  | write (v : Word)

namespace RegisterAccess

/-- The access as a bus transaction at an address. -/
def transaction (a : Word) : RegisterAccess → Transaction
  | read => .read .w32 a
  | write v => .write a (.b32 v)

/-- Its row at offset `off` of the window (R53). -/
def row (a : Word) (off : Nat) : RegisterAccess → Instr
  | read => decodeRegisterRead a off
  | write v => decodeRegisterWrite a off v

/-- Its row at word `k` of channel `c`'s slot (R54). -/
def slotRow (c : ChannelIx) (k : Fin 4) : RegisterAccess → Instr
  | read =>
    match k with
    | 0 => .rd32ChAddr c
    | 1 => .rd32ChBcr c
    | 2 => .rd32ChCtrl c
    | 3 => .rd32DmaReservedSlot c
  | write v =>
    match k with
    | 0 => .wr32ChAddr c v
    | 1 => .wr32ChBcr c v
    | 2 => .wr32ChCtrl c v
    | 3 => .wr32DmaReservedSlot c v

/-- Its row at the packed register of offset `0x100 + 4*k` (R54). -/
def packedRow (k : Fin 4) : RegisterAccess → Instr
  | read =>
    match k with
    | 0 => .rd32Dpcr
    | 1 => .rd32Dicr
    | 2 => .rd32Dpcr2
    | 3 => .rd32Dicr2
  | write v =>
    match k with
    | 0 => .wr32Dpcr v
    | 1 => .wr32Dicr v
    | 2 => .wr32Dpcr2 v
    | 3 => .wr32Dicr2 v

/-- Its row above the packed registers (R95, R96). -/
def highRow (a : Word) : RegisterAccess → Instr
  | read => .rd32DmaReservedHigh a
  | write v => .wr32DmaReservedHigh a v

theorem offsetChannel_slot (c : ChannelIx) (k : Fin 4) : offsetChannel (16 * c.val + 4 * k.val) = c :=
  Fin.ext (by simp only [offsetChannel, Fin.ofNat]; omega)

theorem row_slot (r : RegisterAccess) (a : Word) (c : ChannelIx) (k : Fin 4) :
    r.row a (16 * c.val + 4 * k.val) = r.slotRow c k := by
  have hk : (16 * c.val + 4 * k.val) / 4 % 4 = k.val := by omega
  cases r <;>
    simp only [row, decodeRegisterRead, decodeRegisterWrite, offsetChannel_slot, hk,
      if_pos (show 16 * c.val + 4 * k.val < 0x100 by omega)] <;>
    fin_cases k <;> rfl

theorem row_packed (r : RegisterAccess) (a : Word) (k : Fin 4) : r.row a (0x100 + 4 * k.val) = r.packedRow k := by
  cases r <;> fin_cases k <;> rfl

theorem row_high (r : RegisterAccess) (a : Word) {off : Nat} (h : 0x110 ≤ off) : r.row a off = r.highRow a := by
  cases r <;>
    simp only [row, decodeRegisterRead, decodeRegisterWrite, if_neg (show ¬ off < 0x100 by omega),
      if_neg (show off ≠ 0x100 by omega), if_neg (show off ≠ 0x104 by omega), if_neg (show off ≠ 0x108 by omega),
      if_neg (show off ≠ 0x10C by omega), highRow]

/-- The multiples of 4 below the end of the window, by the ranges of R54. -/
theorem offset_cases {off : Nat} (h : off < 512) (h4 : off % 4 = 0) :
    (∃ (c : ChannelIx) (k : Fin 4), off = 16 * c.val + 4 * k.val) ∨ (∃ k : Fin 4, off = 0x100 + 4 * k.val) ∨
      0x110 ≤ off := by
  by_cases hs : off < 0x100
  · exact .inl ⟨⟨off / 16, by omega⟩, ⟨off / 4 % 4, by omega⟩, by simp only; omega⟩
  · by_cases hp : off < 0x110
    · exact .inr (.inl ⟨⟨off / 4 % 4, by omega⟩, by simp only; omega⟩)
    · exact .inr (.inr (by omega))

theorem encode_slotRow (cfg : Config) (r : RegisterAccess) (c : ChannelIx) (k : Fin 4) :
    encode cfg (r.slotRow c k) = (r.transaction (dmaAddress cfg (16 * c.val + 4 * k.val))).record := by
  cases r <;> fin_cases k <;> rfl

theorem encode_packedRow (cfg : Config) (r : RegisterAccess) (k : Fin 4) :
    encode cfg (r.packedRow k) = (r.transaction (dmaAddress cfg (0x100 + 4 * k.val))).record := by
  cases r <;> fin_cases k <;> rfl

theorem encode_highRow (cfg : Config) (r : RegisterAccess) (a : Word) :
    encode cfg (r.highRow a) = (r.transaction a).record := by cases r <;> rfl

theorem wellFormed_slotRow (cfg : Config) (r : RegisterAccess) (c : ChannelIx) (k : Fin 4) :
    WellFormed cfg (r.slotRow c k) = true := by
  cases r <;> fin_cases k <;> rfl

theorem wellFormed_packedRow (cfg : Config) (r : RegisterAccess) (k : Fin 4) :
    WellFormed cfg (r.packedRow k) = true := by
  cases r <;> fin_cases k <;> rfl

theorem wellFormed_highRow (cfg : Config) (r : RegisterAccess) (a : Word) :
    WellFormed cfg (r.highRow a) = reservedHigh cfg a := by cases r <;> rfl

theorem toRegister_iff {cfg : Config} (r : RegisterAccess) (a : Word) :
    (r.transaction a).toRegister cfg ↔ region cfg a 4 = .dma ∧ dmaOffset cfg a % 4 = 0 := by
  cases r <;> simp [Transaction.toRegister, transaction, Transaction.addr, Transaction.width, BusData.width, Width.bytes]

theorem row_transaction {cfg : Config} {r : RegisterAccess} {a : Word} (h : (r.transaction a).toRegister cfg) :
    (r.transaction a).row cfg = r.row a (dmaOffset cfg a) := by
  obtain ⟨hr, h4⟩ := (toRegister_iff r a).mp h
  cases r <;>
    simp [transaction, Transaction.row, row, decodeRead, decodeWrite, Width.bytes, BusData.width, hr, decodeWindowRead,
      decodeWindowWrite, h4]

end RegisterAccess

theorem Transaction.exists_registerAccess {cfg : Config} {x : Transaction} (h : x.toRegister cfg) :
    ∃ (r : RegisterAccess) (a : Word), x = r.transaction a := by
  obtain ⟨-, hw, -⟩ := h
  cases x with
  | read w a => exact ⟨.read, a, congrArg (Transaction.read · a) hw⟩
  | write a d =>
    cases d with
    | b32 v => exact ⟨.write v, a, rfl⟩
    | b8 v => cases hw
    | b16 v => cases hw
    | b64 v => cases hw

/-! ## Addresses of the window -/

theorem dmaAddress_toNat {cfg : Config} (hwf : cfg.wf = true) {off : Nat} (h : off < 512) :
    (dmaAddress cfg off).toNat = cfg.dmaBase.toNat + off := by
  have := cfg.wf_iff.mp hwf
  rw [dmaAddress, BitVec.toNat_add, BitVec.toNat_ofNat]
  omega

theorem dmaOffset_dmaAddress {cfg : Config} (hwf : cfg.wf = true) {off : Nat} (h : off < 512) :
    dmaOffset cfg (dmaAddress cfg off) = off := by
  rw [dmaOffset, dmaAddress_toNat hwf h]
  omega

theorem dmaAddress_dmaOffset {cfg : Config} {a : Word} (h : region cfg a 4 = .dma) :
    dmaAddress cfg (dmaOffset cfg a) = a := by
  have := region_dma h
  apply BitVec.eq_of_toNat_eq
  rw [dmaAddress, dmaOffset, BitVec.toNat_add, BitVec.toNat_ofNat]
  omega

theorem region_dmaAddress {cfg : Config} (hwf : cfg.wf = true) {off : Nat} (h : off + 4 ≤ 512) :
    region cfg (dmaAddress cfg off) 4 = .dma := by
  have := cfg.wf_iff.mp hwf
  have := dmaAddress_toNat hwf (off := off) (by omega)
  rw [region_eq, if_neg (by omega), if_neg (by omega), if_neg (by omega), if_neg (by omega), if_pos (by omega)]

/-- An access of the window at a multiple of 4 performs the row of its offset (R53, R54). -/
theorem RegisterAccess.row_dmaAddress {cfg : Config} (hwf : cfg.wf = true) (r : RegisterAccess) {off : Nat}
    (h : off < 512) (h4 : off % 4 = 0) :
    (r.transaction (dmaAddress cfg off)).row cfg = r.row (dmaAddress cfg off) off := by
  have ho := dmaOffset_dmaAddress hwf h
  rw [row_transaction ((toRegister_iff r _).mpr ⟨region_dmaAddress hwf (by omega), by rwa [ho]⟩), ho]

theorem RegisterAccess.row_slotAddress {cfg : Config} (hwf : cfg.wf = true) (r : RegisterAccess) (c : ChannelIx)
    (k : Fin 4) : (r.transaction (dmaAddress cfg (16 * c.val + 4 * k.val))).row cfg = r.slotRow c k := by
  rw [r.row_dmaAddress hwf (by omega) (by omega), row_slot]

theorem RegisterAccess.row_packedAddress {cfg : Config} (hwf : cfg.wf = true) (r : RegisterAccess) (k : Fin 4) :
    (r.transaction (dmaAddress cfg (0x100 + 4 * k.val))).row cfg = r.packedRow k := by
  rw [r.row_dmaAddress hwf (by omega) (by omega), row_packed]

theorem reservedHigh_iff (cfg : Config) (a : Word) :
    reservedHigh cfg a = true ↔ region cfg a 4 = .dma ∧ dmaOffset cfg a % 4 = 0 ∧ 0x110 ≤ dmaOffset cfg a := by
  simp only [reservedHigh, Bool.and_eq_true, decide_eq_true_eq, and_assoc]

theorem RegisterAccess.row_highAddress {cfg : Config} {a : Word} (r : RegisterAccess)
    (h : reservedHigh cfg a = true) : (r.transaction a).row cfg = r.highRow a := by
  obtain ⟨hr, h4, ho⟩ := (reservedHigh_iff cfg a).mp h
  rw [row_transaction ((toRegister_iff r a).mpr ⟨hr, h4⟩), row_high r a ho]

/-- The three ranges of R54 are all the registers an access can reach. -/
theorem Transaction.register_cases {cfg : Config} {x : Transaction} (h : x.toRegister cfg) :
    ∃ r : RegisterAccess,
      (∃ (c : ChannelIx) (k : Fin 4), x = r.transaction (dmaAddress cfg (16 * c.val + 4 * k.val))) ∨
      (∃ k : Fin 4, x = r.transaction (dmaAddress cfg (0x100 + 4 * k.val))) ∨
      ∃ a, x = r.transaction a ∧ reservedHigh cfg a = true := by
  obtain ⟨r, a, rfl⟩ := x.exists_registerAccess h
  obtain ⟨hr, h4⟩ := (r.toRegister_iff a).mp h
  have ha := dmaAddress_dmaOffset hr
  have hlt : dmaOffset cfg a < 512 := by
    have := region_dma hr
    unfold dmaOffset
    omega
  refine ⟨r, ?_⟩
  obtain ⟨c, k, ho⟩ | ⟨k, ho⟩ | ho := RegisterAccess.offset_cases hlt h4
  · exact .inl ⟨c, k, by rw [← ho, ha]⟩
  · exact .inr (.inl ⟨k, by rw [← ho, ha]⟩)
  · exact .inr (.inr ⟨a, rfl, (reservedHigh_iff cfg a).mpr ⟨hr, h4, ho⟩⟩)

/-! ## The router's row is well formed, and its record is the transaction's -/

theorem Transaction.row_wellFormed_encode {cfg : Config} (hwf : cfg.wf = true) (x : Transaction) :
    WellFormed cfg (x.row cfg) = true ∧ encode cfg (x.row cfg) = x.record := by
  by_cases hx : x.toRegister cfg
  · obtain ⟨r, ⟨c, k, rfl⟩ | ⟨k, rfl⟩ | ⟨a, rfl, ha⟩⟩ := x.register_cases hx
    · rw [r.row_slotAddress hwf]
      exact ⟨r.wellFormed_slotRow cfg c k, r.encode_slotRow cfg c k⟩
    · rw [r.row_packedAddress hwf]
      exact ⟨r.wellFormed_packedRow cfg k, r.encode_packedRow cfg k⟩
    · rw [r.row_highAddress ha]
      exact ⟨(r.wellFormed_highRow cfg a).trans ha, r.encode_highRow cfg a⟩
  · rw [row_eq_regionRow hx]
    exact ⟨(wellFormed_regionRow cfg x _).mpr ⟨rfl, hx⟩, encode_regionRow cfg x _⟩

/-! ## The REG and TAG rows (R62, R63) -/

theorem wellFormed_decodeUnit (cfg : Config) (c : ChannelIx) (ctrl : Word) :
    WellFormed cfg (decodeUnit c ctrl) = true := by
  unfold decodeUnit
  split <;> rfl

theorem format_decodeUnit (c : ChannelIx) (ctrl : Word) : (decodeUnit c ctrl).format = .reg := by
  unfold decodeUnit
  split <;> rfl

/-! A start control word selects its mode and direction (R59). -/

@[simp] theorem ctrlSync_startControl (sync : SyncMode) (dir : Direction) : ctrlSync (startControl sync dir) = sync := by
  cases sync <;> cases dir <;> rfl

@[simp] theorem ctrlDir_startControl (sync : SyncMode) (dir : Direction) : ctrlDir (startControl sync dir) = dir := by
  cases sync <;> cases dir <;> rfl

theorem tagLen_tagWord (len : Byte) (next : BitVec 24) : tagLen (tagWord len next) = len :=
  BitVec.extractLsb'_append_eq_left

theorem tagNext_tagWord (len : Byte) (next : BitVec 24) : tagNext (tagWord len next) = next :=
  BitVec.extractLsb'_append_eq_right

theorem tagWord_tagLen_tagNext (tag : Word) : tagWord (tagLen tag) (tagNext tag) = tag :=
  (BitVec.extractLsb'_append_extractLsb'_eq_extractLsb' rfl).trans BitVec.extractLsb'_eq_self

theorem decodeTag_last (c : ChannelIx) (len : Byte) : decodeTag c (tagWord len terminator) = .tagLast c len := by
  rw [decodeTag, tagNext_tagWord, tagLen_tagWord, if_pos rfl]

theorem decodeTag_link (c : ChannelIx) (len : Byte) {next : BitVec 24} (h : next ≠ terminator) :
    decodeTag c (tagWord len next) = .tagLink c len next := by
  rw [decodeTag, tagNext_tagWord, tagLen_tagWord, if_neg h]

theorem decodeTag_wellFormed_encode (cfg : Config) (c : ChannelIx) (tag : Word) :
    WellFormed cfg (decodeTag c tag) = true ∧ encode cfg (decodeTag c tag) = tagRecord c tag := by
  unfold decodeTag
  split
  case isTrue h =>
    refine ⟨rfl, congrArg (tagRecord c) ?_⟩
    rw [← h, tagWord_tagLen_tagNext]
  case isFalse h => exact ⟨decide_eq_true h, congrArg (tagRecord c) (tagWord_tagLen_tagNext tag)⟩

/-- Settles O49: what the decoder accepts is a transaction's, port's, unit's or tag's record, and each row it gives is well
formed; a control word alone is more than its row. -/
theorem encodeOfDecodeIsTheRecord : Obligations.EncodeOfDecodeIsTheRecord := by
  intro cfg record i hwf hd
  cases decode_ok_iff.mp hd with
  | bus x => exact (x.row_wellFormed_encode hwf).imp_right fun he _ => he
  | tick => exact ⟨rfl, fun _ => rfl⟩
  | reset => exact ⟨rfl, fun _ => rfl⟩
  | intack => exact ⟨rfl, fun _ => rfl⟩
  | unit c ctrl => exact ⟨wellFormed_decodeUnit cfg c ctrl, fun h => absurd (format_decodeUnit c ctrl) h⟩
  | tag c tag => exact (decodeTag_wellFormed_encode cfg c tag).imp_right fun he _ => he

/-! ## Every well-formed operation has its record -/

/-- A row that some transaction performs has that transaction's record. -/
theorem RecordOf.encode_bus {cfg : Config} (hwf : cfg.wf = true) {i : Instr} (x : Transaction) (h : x.row cfg = i) :
    RecordOf cfg (encode cfg i) i := by
  rw [← h, (x.row_wellFormed_encode hwf).2]
  exact .bus x

/-- The rows of a region. -/
theorem RecordOf.encode_regionRow {cfg : Config} (hwf : cfg.wf = true) (x : Transaction) (r : Region)
    (h : WellFormed cfg (x.regionRow r) = true) : RecordOf cfg (encode cfg (x.regionRow r)) (x.regionRow r) :=
  .encode_bus hwf x (x.row_of_wellFormed h)

theorem RecordOf.encode_slot {cfg : Config} (hwf : cfg.wf = true) (r : RegisterAccess) (c : ChannelIx) (k : Fin 4) :
    RecordOf cfg (encode cfg (r.slotRow c k)) (r.slotRow c k) :=
  .encode_bus hwf _ (r.row_slotAddress hwf c k)

theorem RecordOf.encode_packed {cfg : Config} (hwf : cfg.wf = true) (r : RegisterAccess) (k : Fin 4) :
    RecordOf cfg (encode cfg (r.packedRow k)) (r.packedRow k) :=
  .encode_bus hwf _ (r.row_packedAddress hwf k)

theorem RecordOf.encode_high {cfg : Config} (hwf : cfg.wf = true) (r : RegisterAccess) (a : Word)
    (h : reservedHigh cfg a = true) : RecordOf cfg (encode cfg (r.highRow a)) (r.highRow a) :=
  .encode_bus hwf _ (r.row_highAddress h)

theorem RecordOf.of_decodeUnit {cfg : Config} {c : ChannelIx} {ctrl : Word} {i : Instr} (h : decodeUnit c ctrl = i) :
    RecordOf cfg (unitRecord c ctrl) i := h ▸ .unit c ctrl

theorem RecordOf.of_decodeTag {cfg : Config} {c : ChannelIx} {tag : Word} {i : Instr} (h : decodeTag c tag = i) :
    RecordOf cfg (tagRecord c tag) i := h ▸ .tag c tag

/-- The record of a well-formed operation stands for it. -/
theorem RecordOf.encode {cfg : Config} (hwf : cfg.wf = true) {i : Instr} (h : WellFormed cfg i = true) :
    RecordOf cfg (encode cfg i) i := by
  cases i with
  | rd8DmaBadaccess a => exact .encode_regionRow hwf (.read .w8 a) .dma h
  | rd16DmaBadaccess a => exact .encode_regionRow hwf (.read .w16 a) .dma h
  | rd64DmaBadaccess a => exact .encode_regionRow hwf (.read .w64 a) .dma h
  | rd32DmaBadaccess a => exact .encode_regionRow hwf (.read .w32 a) .dma h
  | wr8DmaBadaccess a v => exact .encode_regionRow hwf (.write a (.b8 v)) .dma h
  | wr16DmaBadaccess a v => exact .encode_regionRow hwf (.write a (.b16 v)) .dma h
  | wr64DmaBadaccess a v => exact .encode_regionRow hwf (.write a (.b64 v)) .dma h
  | wr32DmaBadaccess a v => exact .encode_regionRow hwf (.write a (.b32 v)) .dma h
  | rd32ChAddr c => exact .encode_slot hwf .read c 0
  | wr32ChAddr c v => exact .encode_slot hwf (.write v) c 0
  | rd32ChBcr c => exact .encode_slot hwf .read c 1
  | wr32ChBcr c v => exact .encode_slot hwf (.write v) c 1
  | rd32ChCtrl c => exact .encode_slot hwf .read c 2
  | wr32ChCtrl c v => exact .encode_slot hwf (.write v) c 2
  | rd32DmaReservedSlot c => exact .encode_slot hwf .read c 3
  | wr32DmaReservedSlot c v => exact .encode_slot hwf (.write v) c 3
  | rd32Dpcr => exact .encode_packed hwf .read 0
  | wr32Dpcr v => exact .encode_packed hwf (.write v) 0
  | rd32Dicr => exact .encode_packed hwf .read 1
  | wr32Dicr v => exact .encode_packed hwf (.write v) 1
  | rd32Dpcr2 => exact .encode_packed hwf .read 2
  | wr32Dpcr2 v => exact .encode_packed hwf (.write v) 2
  | rd32Dicr2 => exact .encode_packed hwf .read 3
  | wr32Dicr2 v => exact .encode_packed hwf (.write v) 3
  | rd32DmaReservedHigh a => exact .encode_high hwf .read a h
  | wr32DmaReservedHigh a v => exact .encode_high hwf (.write v) a h
  | rd8Ram a => exact .encode_regionRow hwf (.read .w8 a) .ram h
  | rd16Ram a => exact .encode_regionRow hwf (.read .w16 a) .ram h
  | rd32Ram a => exact .encode_regionRow hwf (.read .w32 a) .ram h
  | rd64Ram a => exact .encode_regionRow hwf (.read .w64 a) .ram h
  | wr8Ram a v => exact .encode_regionRow hwf (.write a (.b8 v)) .ram h
  | wr16Ram a v => exact .encode_regionRow hwf (.write a (.b16 v)) .ram h
  | wr32Ram a v => exact .encode_regionRow hwf (.write a (.b32 v)) .ram h
  | wr64Ram a v => exact .encode_regionRow hwf (.write a (.b64 v)) .ram h
  | rd8Cram a => exact .encode_regionRow hwf (.read .w8 a) .cram h
  | rd16Cram a => exact .encode_regionRow hwf (.read .w16 a) .cram h
  | rd32Cram a => exact .encode_regionRow hwf (.read .w32 a) .cram h
  | rd64Cram a => exact .encode_regionRow hwf (.read .w64 a) .cram h
  | wr8Cram a v => exact .encode_regionRow hwf (.write a (.b8 v)) .cram h
  | wr16Cram a v => exact .encode_regionRow hwf (.write a (.b16 v)) .cram h
  | wr32Cram a v => exact .encode_regionRow hwf (.write a (.b32 v)) .cram h
  | wr64Cram a v => exact .encode_regionRow hwf (.write a (.b64 v)) .cram h
  | rd8Dev a => exact .encode_regionRow hwf (.read .w8 a) .dev h
  | rd16Dev a => exact .encode_regionRow hwf (.read .w16 a) .dev h
  | rd32Dev a => exact .encode_regionRow hwf (.read .w32 a) .dev h
  | rd64Dev a => exact .encode_regionRow hwf (.read .w64 a) .dev h
  | wr8Dev a v => exact .encode_regionRow hwf (.write a (.b8 v)) .dev h
  | wr16Dev a v => exact .encode_regionRow hwf (.write a (.b16 v)) .dev h
  | wr32Dev a v => exact .encode_regionRow hwf (.write a (.b32 v)) .dev h
  | wr64Dev a v => exact .encode_regionRow hwf (.write a (.b64 v)) .dev h
  | rd8Unmapped a => exact .encode_regionRow hwf (.read .w8 a) .unmapped h
  | rd16Unmapped a => exact .encode_regionRow hwf (.read .w16 a) .unmapped h
  | rd32Unmapped a => exact .encode_regionRow hwf (.read .w32 a) .unmapped h
  | rd64Unmapped a => exact .encode_regionRow hwf (.read .w64 a) .unmapped h
  | wr8Unmapped a v => exact .encode_regionRow hwf (.write a (.b8 v)) .unmapped h
  | wr16Unmapped a v => exact .encode_regionRow hwf (.write a (.b16 v)) .unmapped h
  | wr32Unmapped a v => exact .encode_regionRow hwf (.write a (.b32 v)) .unmapped h
  | wr64Unmapped a v => exact .encode_regionRow hwf (.write a (.b64 v)) .unmapped h
  | tick => exact .tick
  | reset => exact .reset
  | intack => exact .intack
  | unitBurst c dir => exact .of_decodeUnit (by simp [decodeUnit])
  | unitBlock c dir => exact .of_decodeUnit (by simp [decodeUnit])
  | unitList c dir => exact .of_decodeUnit (by simp [decodeUnit])
  | unitReserved c dir => exact .of_decodeUnit (by simp [decodeUnit])
  | tagLast c len => exact .of_decodeTag (decodeTag_last c len)
  | tagLink c len next => exact .of_decodeTag (decodeTag_link c len (of_decide_eq_true h))

/-- Settles O48: the record stands for the operation, so that the decoder gives it back. -/
theorem decodeOfEncodeIsTheOperation : Obligations.DecodeOfEncodeIsTheOperation :=
  fun _ _ hwf h => (RecordOf.encode hwf h).decode_eq

end Sys2Proof
end

section
/-! The family of spec/30_encoding.md, the opcode table: a pattern of the table is a range of addresses, and the rows of each
region and of the registers, tried in their order, answer the row the router performs. -/

namespace Sys2Proof

open Machine

/-! ## Patterns as address ranges -/

/-- A mask of all bits from `k` up compares an address with the block of `2^k` bytes at the pattern. -/
theorem and_mask_eq_iff {mask pat : Word} {k : Nat} (hm : mask = BitVec.allOnes 32 <<< k) (hp : pat.toNat % 2 ^ k = 0)
    (a : Word) : a &&& mask = pat ↔ pat.toNat ≤ a.toNat ∧ a.toNat < pat.toNat + 2 ^ k := by
  have hpos : 0 < 2 ^ k := Nat.two_pow_pos k
  have hle : a.toNat / 2 ^ k * 2 ^ k < 2 ^ 32 := (Nat.div_mul_le_self _ _).trans_lt a.isLt
  obtain ⟨q, hq⟩ := Nat.dvd_of_mod_eq_zero hp
  rw [hm, ← BitVec.shiftLeft_ushiftRight, ← BitVec.toNat_inj, BitVec.toNat_shiftLeft, BitVec.toNat_ushiftRight,
    Nat.shiftRight_eq_div_pow, Nat.shiftLeft_eq, Nat.mod_eq_of_lt hle, hq, Nat.mul_comm, Nat.mul_right_inj hpos.ne',
    Nat.div_eq_iff hpos, Nat.mul_comm q]
  omega

/-- The first and the last byte of an access match where its bytes lie in the block. -/
theorem first_last_match_iff {mask pat : Word} {k : Nat} (hm : mask = BitVec.allOnes 32 <<< k)
    (hp : pat.toNat % 2 ^ k = 0) (hs : pat.toNat + 2 ^ k ≤ 2 ^ 32) (a : Word) {n : Nat} (hn : 0 < n) :
    (a &&& mask = pat ∧ a.toNat + n ≤ 2 ^ 32 ∧ BitVec.ofNat 32 (a.toNat + n - 1) &&& mask = pat) ↔
      pat.toNat ≤ a.toNat ∧ a.toNat + n ≤ pat.toNat + 2 ^ k := by
  simp only [and_mask_eq_iff hm hp, BitVec.toNat_ofNat]
  generalize 2 ^ k = size at *
  omega

/-- The window begins at a multiple of 4 (R7). -/
theorem dmaOffset_mod_four {cfg : Config} (hwf : cfg.wf = true) {a : Word} {n : Nat} (h : region cfg a n = .dma) :
    dmaOffset cfg a % 4 = a.toNat % 4 := by
  have := cfg.wf_iff.mp hwf
  have := region_dma h
  unfold dmaOffset
  omega

/-- In a well-formed configuration no region hides another: an access is a region's where its bytes lie in it (R7, R33). -/
theorem region_eq_iff {cfg : Config} (hwf : cfg.wf = true) (a : Word) {n : Nat} (hn : 0 < n) :
    (region cfg a n = .ram ↔ cfg.ramBase.toNat ≤ a.toNat ∧ a.toNat + n ≤ cfg.ramBase.toNat + cfg.ramSize) ∧
    (region cfg a n = .cram ↔ cfg.cramBase.toNat ≤ a.toNat ∧ a.toNat + n ≤ cfg.cramBase.toNat + cfg.cramSize) ∧
    (region cfg a n = .dev ↔ cfg.devBase.toNat ≤ a.toNat ∧ a.toNat + n ≤ cfg.devBase.toNat + cfg.devSize) ∧
    (region cfg a n = .dma ↔ cfg.dmaBase.toNat ≤ a.toNat ∧ a.toNat + n ≤ cfg.dmaBase.toNat + 512) := by
  have := cfg.wf_iff.mp hwf
  rw [region_eq]
  split_ifs <;> simp only [true_iff, false_iff] <;> omega

/-! ## The first row of a part of the table -/

/-- The row is for the kind and width of the transaction. -/
def BusRow.forAccess (x : Transaction) (row : BusRow) : Bool := decide (row.kind = x.kind) && decide (row.w = x.width)

theorem BusRow.forAccess_of_matches {x : Transaction} {row : BusRow}
    (h : row.matches x.kind x.width x.addr = true) : row.forAccess x = true := (Bool.and_eq_true _ _ ▸ h).1

theorem BusRow.width_of_forAccess {x : Transaction} {row : BusRow} (h : row.forAccess x = true) : row.w = x.width :=
  of_decide_eq_true (Bool.and_eq_true _ _ ▸ h).2

theorem BusRow.matches_lastByte {x : Transaction} {row : BusRow} (hx : row.forAccess x = true) {mask pat : Word}
    (hp : row.pattern = some (mask, pat)) (hc : row.cond = .lastByte) : row.matches x.kind x.width x.addr = true ↔
      x.addr &&& mask = pat ∧ x.addr.toNat + x.width.bytes ≤ 2 ^ 32 ∧
        BitVec.ofNat 32 (x.addr.toNat + x.width.bytes - 1) &&& mask = pat := by
  rw [forAccess] at hx
  simp only [BusRow.matches, hx, hp, hc, Bool.true_and, Bool.and_eq_true, decide_eq_true_eq]

theorem BusRow.matches_misaligned {x : Transaction} {row : BusRow} (hx : row.forAccess x = true) {mask pat : Word}
    (hp : row.pattern = some (mask, pat)) (hc : row.cond = .misaligned) : row.matches x.kind x.width x.addr = true ↔
      (x.addr &&& mask = pat ∧ x.addr.toNat + x.width.bytes ≤ 2 ^ 32 ∧
        BitVec.ofNat 32 (x.addr.toNat + x.width.bytes - 1) &&& mask = pat) ∧ x.addr.extractLsb' 0 2 ≠ 0#2 := by
  rw [forAccess] at hx
  simp only [BusRow.matches, hx, hp, hc, Bool.true_and, Bool.and_eq_true, decide_eq_true_eq, and_assoc]

/-- The name of the first of the rows that matches the transaction. -/
def firstIn (rows : List BusRow) (x : Transaction) : Option String :=
  (rows.find? (·.matches x.kind x.width x.addr)).map (·.name)

theorem firstIn_append (rows rows' : List BusRow) (x : Transaction) :
    firstIn (rows ++ rows') x = (firstIn rows x).or (firstIn rows' x) := by
  rw [firstIn, List.find?_append, Option.map_or]
  rfl

theorem firstIn_eq_none {rows : List BusRow} {x : Transaction}
    (h : ∀ row ∈ rows, ¬ row.matches x.kind x.width x.addr = true) : firstIn rows x = none := by
  rw [firstIn, List.find?_eq_none.mpr h, Option.map_none]

/-- Rows with one condition on the access are told apart by kind and width. -/
theorem firstIn_eq_ite {rows : List BusRow} {x : Transaction} {P : Prop} [Decidable P]
    (h : ∀ row ∈ rows, row.forAccess x = true → (row.matches x.kind x.width x.addr = true ↔ P)) :
    firstIn rows x = if P then (rows.find? (·.forAccess x)).map (·.name) else none := by
  split
  case isTrue hP =>
    refine congrArg (Option.map _) (List.find?_congr fun row hrow => Bool.eq_iff_iff.mpr ?_)
    exact ⟨BusRow.forAccess_of_matches, fun hx => (h row hrow hx).mpr hP⟩
  case isFalse hP =>
    exact firstIn_eq_none fun row hrow hm => hP ((h row hrow (BusRow.forAccess_of_matches hm)).mp hm)

/-! ## The rows of the regions (R65) -/

/-- The rows of a region in the table; for the DMA window the BADACCESS rows. -/
def regionRows : Region → List BusRow
  | .ram => busRowsRam
  | .cram => busRowsCram
  | .dev => busRowsDev
  | .dma => busRowsRejected
  | .unmapped => busRowsUnmapped

/-- Each region has one row for each kind and width, under its name. -/
theorem name_regionRows (x : Transaction) (r : Region) :
    ((regionRows r).find? (·.forAccess x)).map (·.name) = some (x.regionRow r).mnemonic := by
  cases x with
  | read w a => cases r <;> cases w <;> rfl
  | write a d => cases r <;> cases d <;> rfl

/-- The rows of a region that is a block of `2^k` bytes match the accesses it holds. -/
theorem matches_block {rows : List BusRow} {mask pat : Word} {k : Nat}
    (hrows : ∀ row ∈ rows, row.pattern = some (mask, pat) ∧ row.cond = .lastByte)
    (hm : mask = BitVec.allOnes 32 <<< k) (hp : pat.toNat % 2 ^ k = 0) (hs : pat.toNat + 2 ^ k ≤ 2 ^ 32)
    {x : Transaction} {r : Region} (hd : r ≠ .dma) (hr : region Config.vectorDefault x.addr x.width.bytes = r ↔
      pat.toNat ≤ x.addr.toNat ∧ x.addr.toNat + x.width.bytes ≤ pat.toNat + 2 ^ k)
    {row : BusRow} (hrow : row ∈ rows) (hx : row.forAccess x = true) :
    row.matches x.kind x.width x.addr = true ↔ WellFormed Config.vectorDefault (x.regionRow r) = true := by
  obtain ⟨hpat, hc⟩ := hrows row hrow
  rw [BusRow.matches_lastByte hx hpat hc, first_last_match_iff hm hp hs x.addr x.width.bytes_pos,
    x.wellFormed_regionRow_of_ne_dma _ hd, decide_eq_true_eq, hr]

theorem extractLsb'_two_eq_zero_iff (a : Word) : a.extractLsb' 0 2 = 0#2 ↔ a.toNat % 4 = 0 := by
  rw [← BitVec.toNat_inj, BitVec.extractLsb'_toNat]
  rfl

/-- The BADACCESS rows match the accesses of the window that reach no register. -/
theorem matches_rejected {x : Transaction} {row : BusRow} (hrow : row ∈ busRowsRejected)
    (hx : row.forAccess x = true) : row.matches x.kind x.width x.addr = true ↔
      WellFormed Config.vectorDefault (x.regionRow .dma) = true := by
  have hrows : ∀ row ∈ busRowsRejected, row.pattern = some (0xFFFFFE00#32, 0x1F801000#32) ∧
      row.cond = if row.w = .w32 then .misaligned else .lastByte := by decide
  obtain ⟨hpat, hc⟩ := hrows row hrow
  obtain ⟨-, -, -, hr⟩ := region_eq_iff vectorDefault_wf x.addr x.width.bytes_pos
  have hblock := hr.trans (first_last_match_iff (mask := 0xFFFFFE00#32) (pat := 0x1F801000#32) (k := 9) rfl rfl
    (by decide) x.addr x.width.bytes_pos).symm
  rw [x.wellFormed_regionRow]
  rw [row.width_of_forAccess hx] at hc
  split at hc
  case isTrue h32 =>
    rw [BusRow.matches_misaligned hx hpat hc, ← hblock, Ne, extractLsb'_two_eq_zero_iff]
    refine and_congr_right fun hd => not_congr ?_
    rw [← dmaOffset_mod_four vectorDefault_wf hd]
    exact ⟨fun h4 => ⟨hd, h32, h4⟩, fun ⟨_, _, h4⟩ => h4⟩
  case isFalse h32 =>
    rw [BusRow.matches_lastByte hx hpat hc, ← hblock]
    exact ⟨fun hd => ⟨hd, fun ⟨_, hw, _⟩ => h32 hw⟩, And.left⟩

/-- The rows of a region match the accesses for which they are well formed. -/
theorem matches_regionRows {x : Transaction} {r : Region} (h : r ≠ .unmapped) {row : BusRow}
    (hrow : row ∈ regionRows r) (hx : row.forAccess x = true) : row.matches x.kind x.width x.addr = true ↔
      WellFormed Config.vectorDefault (x.regionRow r) = true := by
  obtain ⟨hram, hcram, hdev, -⟩ := region_eq_iff vectorDefault_wf x.addr x.width.bytes_pos
  cases r with
  | ram =>
    exact matches_block (mask := 0xFFE00000#32) (pat := 0x00000000#32) (k := 21) (by decide) rfl rfl (by decide)
      (by decide) hram hrow hx
  | cram =>
    exact matches_block (mask := 0xFFE00000#32) (pat := 0x1C000000#32) (k := 21) (by decide) rfl rfl (by decide)
      (by decide) hcram hrow hx
  | dev =>
    exact matches_block (mask := 0xFFFFF000#32) (pat := 0x1F800000#32) (k := 12) (by decide) rfl rfl (by decide)
      (by decide) hdev hrow hx
  | dma => exact matches_rejected hrow hx
  | unmapped => exact absurd rfl h

theorem firstIn_regionRows (x : Transaction) {r : Region} (h : r ≠ .unmapped) : firstIn (regionRows r) x =
    if WellFormed Config.vectorDefault (x.regionRow r) = true then some (x.regionRow r).mnemonic else none := by
  rw [← name_regionRows]
  exact firstIn_eq_ite fun _ hrow hx => matches_regionRows h hrow hx

/-- The table's default rows match every access (R77, R78). -/
theorem firstIn_regionRows_unmapped (x : Transaction) :
    firstIn (regionRows .unmapped) x = some (x.regionRow .unmapped).mnemonic := by
  have hrows : ∀ row ∈ regionRows .unmapped, row.pattern = none := by decide
  have hall := firstIn_eq_ite (rows := regionRows .unmapped) (x := x) (P := True) fun row hrow hx => by
    rw [BusRow.forAccess] at hx
    simp only [BusRow.matches, hx, hrows row hrow, Bool.and_true]
  rw [hall, if_pos trivial, name_regionRows]

/-! ## The rows of the registers -/

theorem and_three_eq_zero_iff (a : Word) : a &&& 3#32 = 0#32 ↔ a.toNat % 4 = 0 := by
  rw [← BitVec.toNat_inj, BitVec.toNat_and]
  exact Eq.congr_left (Nat.and_two_pow_sub_one_eq_mod a.toNat 2)

/-- The row's pattern fixes the bits of `mask` to those of `pat`. -/
def BusRow.fixes (mask pat : Word) (row : BusRow) : Bool :=
  match row.pattern with
  | none => false
  | some (m, p) => decide (m &&& mask = mask) && decide (p &&& mask = pat)

theorem BusRow.and_eq_of_fixes {row : BusRow} {mask pat : Word} (hf : row.fixes mask pat = true) {kind : Kind} {w : Width}
    {a : Word} (h : row.matches kind w a = true) : a &&& mask = pat := by
  unfold fixes at hf
  unfold BusRow.matches at h
  split at hf
  · cases hf
  case h_2 m p hp =>
    simp only [hp, Bool.and_eq_true, decide_eq_true_eq] at h hf
    rw [← hf.2, ← h.2.1, BitVec.and_assoc, hf.1]

/-- A register row matches inside the window only (R53). -/
theorem firstIn_registers_eq_none {x : Transaction}
    (h : region Config.vectorDefault x.addr x.width.bytes ≠ .dma) : firstIn busRowsRegisters x = none := by
  have hrows : ∀ row ∈ busRowsRegisters, row.w = .w32 ∧ row.fixes 0xFFFFFE00#32 0x1F801000#32 = true ∧
      row.fixes 3#32 0#32 = true := by decide
  refine firstIn_eq_none fun row hrow hm => h ?_
  obtain ⟨h32, hbase, hlow⟩ := hrows row hrow
  have hw := row.width_of_forAccess (row.forAccess_of_matches hm)
  have hb := (and_mask_eq_iff (k := 9) rfl rfl x.addr).mp (row.and_eq_of_fixes hbase hm)
  have hl := (and_three_eq_zero_iff x.addr).mp (row.and_eq_of_fixes hlow hm)
  obtain ⟨-, -, -, hr⟩ := region_eq_iff vectorDefault_wf x.addr x.width.bytes_pos
  rw [hr, ← hw, h32]
  simp only [Config.vectorDefault, Width.bytes, BitVec.reduceToNat] at hb ⊢
  omega

/-- Each of the 128 words of the window has its row, the first of the register rows to match: by evaluation, for a read and for a
write of 0, which stands for every write (`firstIn_write`, `mnemonic_row_write`). -/
theorem firstIn_registers_window : ∀ m : Fin 128, ∀ r ∈ [RegisterAccess.read, .write 0#32],
    firstIn busRowsRegisters (r.transaction (dmaAddress Config.vectorDefault (4 * m.val))) =
      some (r.row (dmaAddress Config.vectorDefault (4 * m.val)) (4 * m.val)).mnemonic := by decide

theorem RegisterAccess.firstIn_write (rows : List BusRow) (a : Word) (v v' : Word) :
    firstIn rows ((write v).transaction a) = firstIn rows ((write v').transaction a) := rfl

/-- The data of a write selects no row. -/
theorem RegisterAccess.mnemonic_row_write (a : Word) (off : Nat) (v v' : Word) :
    ((write v).row a off).mnemonic = ((write v').row a off).mnemonic := by
  simp only [row, decodeRegisterWrite]
  split_ifs
  · split <;> rfl
  all_goals rfl

theorem firstIn_registers {x : Transaction} (h : x.toRegister Config.vectorDefault) :
    firstIn busRowsRegisters x = some (x.row Config.vectorDefault).mnemonic := by
  obtain ⟨r, a, rfl⟩ := x.exists_registerAccess h
  obtain ⟨hd, h4⟩ := (r.toRegister_iff a).mp h
  have := region_dma hd
  obtain ⟨m, hm⟩ : ∃ m : Fin 128, dmaOffset Config.vectorDefault a = 4 * m.val :=
    ⟨⟨dmaOffset Config.vectorDefault a / 4, by unfold dmaOffset; omega⟩, by simp only; omega⟩
  have ha := dmaAddress_dmaOffset hd
  rw [hm] at ha
  rw [RegisterAccess.row_transaction h, hm, ← ha]
  cases r with
  | read => exact firstIn_registers_window m .read List.mem_cons_self
  | write v =>
    rw [RegisterAccess.firstIn_write _ _ v 0#32, RegisterAccess.mnemonic_row_write _ _ v 0#32]
    exact firstIn_registers_window m (.write 0#32) (List.mem_cons_of_mem _ List.mem_cons_self)

/-! ## The whole table -/

/-- The parts of the table in their order. -/
theorem firstRow_eq (x : Transaction) : firstRow x.kind x.width x.addr =
    (firstIn (regionRows .dma) x).or ((firstIn busRowsRegisters x).or ((firstIn (regionRows .ram) x).or
      ((firstIn (regionRows .cram) x).or ((firstIn (regionRows .dev) x).or (firstIn (regionRows .unmapped) x))))) := by
  simp only [← firstIn_append, ← List.append_assoc]
  rfl

/-- The first row that matches a transaction is the row the router performs. -/
theorem firstRow_row (x : Transaction) :
    firstRow x.kind x.width x.addr = some (x.row Config.vectorDefault).mnemonic := by
  rw [firstRow_eq, firstIn_regionRows_unmapped]
  by_cases hx : x.toRegister Config.vectorDefault
  · rw [firstIn_regionRows x (r := .dma) (by decide), if_neg fun hw => ((x.wellFormed_regionRow _ _).mp hw).2 hx,
      firstIn_registers hx]
    rfl
  · rw [Transaction.row_eq_regionRow hx]
    have hregs := firstIn_registers_eq_none (x := x)
    simp only [firstIn_regionRows, x.wellFormed_regionRow, hx, not_false_eq_true, and_true, ne_eq, reduceCtorEq]
    cases hr : region Config.vectorDefault x.addr x.width.bytes <;> simp [hregs, hr]

/-- Settles O50: the first matching row of a transaction, for reads and for writes. -/
theorem opcodeTableIsTheRoutersDecode : Obligations.OpcodeTableIsTheRoutersDecode :=
  ⟨fun w a => firstRow_row (.read w a), fun a d => firstRow_row (.write a d)⟩

/-! ## Records written out -/

/-- Settles O51: each of the seventeen records is decoded by computation. -/
theorem writtenOutRecordsDecode : Obligations.WrittenOutRecordsDecode := by
  unfold Obligations.WrittenOutRecordsDecode
  decide

end Sys2Proof
end

section
/-! The family of spec/40_bus_access.md: an access that lies in RAM, CRAM or DEV, or in no single region, performs its region's
row, and what that row answers and changes. -/

namespace Sys2Proof

open Machine

/-! ## The row of an access outside the DMA window (R52) -/

theorem Bank.region_ne_dma (b : Bank) : b.region ≠ .dma := by cases b <;> decide

/-- Outside the DMA window the router performs the region's row for a read. -/
theorem decodeRead_eq_readRow {cfg : Config} {w : Width} {a : Word} {r : Region} (hr : region cfg a w.bytes = r)
    (hdma : r ≠ .dma) : decodeRead cfg w a = readRow r w a := by
  subst hr
  exact Transaction.row_eq_regionRow (x := .read w a) fun hreg => hdma hreg.1

/-- Outside the DMA window the router performs the region's row for a write. -/
theorem decodeWrite_eq_writeRow {cfg : Config} {a : Word} {d : BusData} {r : Region}
    (hr : region cfg a d.width.bytes = r) (hdma : r ≠ .dma) : decodeWrite cfg a d = writeRow r a d := by
  subst hr
  exact Transaction.row_eq_regionRow (x := .write a d) fun hreg => hdma hreg.1

end Sys2Proof

namespace Sys2Proof.Machine

/-! ## RAM and CRAM (R71 to R74) -/

/-- Settles O3: the memory's row is the shared read, whose value has the bytes of memory at its indexes. -/
theorem ramAndCramReadsAnswerTheirBytes : Obligations.RamAndCramReadsAnswerTheirBytes := by
  intro s b w a hr
  exact ⟨decodeRead_eq_readRow hr b.region_ne_dma, _, BusData.ofNat_width _ _, fun _ hi => s.readBytes_value_byte b _ hi,
    (exec_readRow_bank b w a s).trans (readBank_inside hr)⟩

/-- A store changes no field but the two memories. -/
theorem State.storeBytes_eq_with_memories (s : State) (b : Bank) (o : Nat) (xs : List Byte) :
    s.storeBytes b o xs = { s with ram := (s.storeBytes b o xs).ram, cram := (s.storeBytes b o xs).cram } := by
  rw [State.storeBytes_eq]
  cases b <;> rfl

/-- Settles O4: the memory's row is the shared write, whose store reaches the bytes of the data and no others. -/
theorem ramAndCramWritesStoreTheirBytes : Obligations.RamAndCramWritesStoreTheirBytes := by
  intro s b a d hr
  refine ⟨decodeWrite_eq_writeRow hr b.region_ne_dma, _, (exec_writeRow_bank b a d s).trans (writeBank_inside hr),
    fun i hi => ?stored, fun b' o hout => ?frame, ?fields⟩
  case stored =>
    rw [State.answerWith_byteAt, State.emit_byteAt, State.byteAt_storeData, if_pos (by omega), Nat.add_sub_cancel_left]
  case frame =>
    rw [State.answerWith_byteAt, State.emit_byteAt]
    refine s.byteAt_storeBytes_outside fun hb hin => ?_
    rw [BusData.bytes_length] at hin
    rcases hout with hne | hlt
    · exact hne hb
    · omega
  case fields =>
    exact congrArg (fun u => (u.emit (.invalidate a d.width.bytes)).answerWith (some (.write .ok)))
      (s.storeBytes_eq_with_memories b (bankOffset s.cfg b a) d.bytes)

/-! ## DEV (R75, R76) -/

/-- A read row of DEV is the shared read that answers a draw. -/
theorem exec_readRow_dev (w : Width) (a : Word) (s : State) :
    exec (readRow .dev w a) s = readDraw (decide (region s.cfg a w.bytes = .dev)) .ok w s := by
  cases w <;> rfl

/-- A write row of DEV is the shared forwarded write. -/
theorem exec_writeRow_dev (a : Word) (d : BusData) (s : State) : exec (writeRow .dev a d) s = writeDevice a d s := by
  cases d <;> rfl

/-- Settles O5: the access is the row's own, so the shared operation is performed. -/
theorem deviceAccessesAreForwarded : Obligations.DeviceAccessesAreForwarded :=
  ⟨fun s w a hr => ⟨decodeRead_eq_readRow hr (by decide), (exec_readRow_dev w a s).trans (if_pos (decide_eq_true hr))⟩,
    fun s a d hr => ⟨decodeWrite_eq_writeRow hr (by decide), (exec_writeRow_dev a d s).trans (if_pos hr)⟩⟩

/-! ## Unmapped accesses (R77, R78) -/

/-- A default read row is the shared read that answers a draw. -/
theorem exec_readRow_unmapped (w : Width) (a : Word) (s : State) :
    exec (readRow .unmapped w a) s = readDraw (decide (region s.cfg a w.bytes = .unmapped)) .unmapped w s := by
  cases w <;> rfl

/-- A default write row is the shared discarded write. -/
theorem exec_writeRow_unmapped (a : Word) (d : BusData) (s : State) :
    exec (writeRow .unmapped a d) s = writeDiscard (decide (region s.cfg a d.width.bytes = .unmapped)) .unmapped s := by
  cases d <;> rfl

/-- Settles O6: the access is the row's own, so the shared operation is performed. -/
theorem unmappedAccessesChangeNothing : Obligations.UnmappedAccessesChangeNothing :=
  ⟨fun s w a hr =>
      ⟨decodeRead_eq_readRow hr (by decide), (exec_readRow_unmapped w a s).trans (if_pos (decide_eq_true hr))⟩,
    fun s a d hr =>
      ⟨decodeWrite_eq_writeRow hr (by decide), (exec_writeRow_unmapped a d s).trans (if_pos (decide_eq_true hr))⟩⟩

end Sys2Proof.Machine
end

section
/-! The family of spec/41_dma_registers.md: what a read of a channel register or a packed view answers, what a write assigns and
leaves, that the accesses which reach no register are rejected, and the write-then-read laws. The rows of the register map's
addresses are the lemmas of the family of spec/30_encoding.md. -/

namespace Sys2Proof.Machine

/-! ## The channel registers (R81 to R86) -/

/-- Settles O9: each row is the register read of its word of the slot. -/
theorem channelRegisterReadsAnswerTheRegister : Obligations.ChannelRegisterReadsAnswerTheRegister :=
  fun _ c => ⟨rfl, rfl, rfl, fun hwf =>
    ⟨RegisterAccess.read.row_slotAddress hwf c 0, RegisterAccess.read.row_slotAddress hwf c 1,
      RegisterAccess.read.row_slotAddress hwf c 2⟩⟩

/-- Every element of a per-channel array after a write of one. -/
theorem PerChannel.get_set {α : Type} (v : PerChannel α) (c c' : ChannelIx) (x : α) :
    (v.set c x)[c'] = if c' = c then x else v[c'] := by
  split
  case isTrue hc => rw [hc, PerChannel.get_set_self]
  case isFalse hc => rw [PerChannel.get_set_other v x hc]

/-- Settles O10: each row writes one element of the register file. -/
theorem channelRegisterWritesStoreTheValue : Obligations.ChannelRegisterWritesStoreTheValue :=
  fun s c v =>
    ⟨⟨_, rfl, rfl, fun c' => PerChannel.get_set s.ch c c' { s.ch[c] with addr := v }⟩,
      ⟨_, rfl, rfl, fun c' => PerChannel.get_set s.ch c c' { s.ch[c] with bcr := v }⟩,
      ⟨_, rfl, rfl, fun c' => PerChannel.get_set s.ch c c' { s.ch[c] with ctrl := v }⟩,
      fun hwf =>
        ⟨(RegisterAccess.write v).row_slotAddress hwf c 0, (RegisterAccess.write v).row_slotAddress hwf c 1,
          (RegisterAccess.write v).row_slotAddress hwf c 2⟩⟩

/-! ## DPCR and DPCR2 (R87 to R90) -/

/-- Bit 3 of the nibble of a channel is its enable (R60). -/
theorem packPriority_en (g : Fin 2) (prio : PerChannel (BitVec 3)) (en : PerChannel Bool) (i : Fin 8) :
    (packPriority g prio en).getLsbD (4 * i.val + 3) = en[groupChannel g i] := by
  rw [packPriority_nibble g prio en i (by omega), if_pos rfl]

/-- Settles O11: the answer is the group's packed view, whose nibbles are the priorities and enables. -/
theorem priorityReadsPackTheNibbles : Obligations.PriorityReadsPackTheNibbles :=
  fun s =>
    ⟨⟨_, rfl, fun i => ⟨packPriority_prio 0 s.prio s.en i, packPriority_en 0 s.prio s.en i⟩⟩,
      ⟨_, rfl, fun i => ⟨packPriority_prio 1 s.prio s.en i, packPriority_en 1 s.prio s.en i⟩⟩,
      fun hwf => ⟨RegisterAccess.read.row_packedAddress hwf 0, RegisterAccess.read.row_packedAddress hwf 2⟩⟩

/-- A write of a group's priority register, channel by channel of both groups (R88, R90). -/
theorem writePriority_groups {g g' : Fin 2} (hg : g ≠ g') (v : Word) (s : State) (i : Fin 8) :
    (writePriority g v s).prio[groupChannel g i] = v.extractLsb' (4 * i.val) 3 ∧
      (writePriority g v s).en[groupChannel g i] = v.getLsbD (4 * i.val + 3) ∧
      (writePriority g v s).prio[groupChannel g' i] = s.prio[groupChannel g' i] ∧
      (writePriority g v s).en[groupChannel g' i] = s.en[groupChannel g' i] :=
  ⟨writePriority_prio g v s i, writePriority_en g v s i, writePriority_other hg v s i⟩

/-- A write of a priority register changes no field but the priorities and enables (R88, R90). -/
theorem writePriority_eq_with_priorities (g : Fin 2) (v : Word) (s : State) : writePriority g v s =
    { s with prio := (writePriority g v s).prio, en := (writePriority g v s).en } := rfl

/-- Settles O12: the row assigns the nibbles of its group and keeps those of the other. -/
theorem priorityWritesAssignTheirGroup : Obligations.PriorityWritesAssignTheirGroup := by
  refine fun s v => ⟨⟨_, rfl, fun i => ?dpcr, ?dpcrFrame⟩, ⟨_, rfl, fun i => ?dpcr2, ?dpcr2Frame⟩, fun hwf => ?rows⟩
  case dpcr =>
    simp only [State.answerWith_prio, State.answerWith_en]
    exact writePriority_groups (by decide) v s i
  case dpcr2 =>
    simp only [State.answerWith_prio, State.answerWith_en]
    exact writePriority_groups (by decide) v s i
  case dpcrFrame =>
    exact congrArg (·.answerWith (some (.write .ok))) (writePriority_eq_with_priorities 0 v s)
  case dpcr2Frame =>
    exact congrArg (·.answerWith (some (.write .ok))) (writePriority_eq_with_priorities 1 v s)
  case rows =>
    exact ⟨(RegisterAccess.write v).row_packedAddress hwf 0, (RegisterAccess.write v).row_packedAddress hwf 2⟩

/-! ## DICR and DICR2 (R91 to R94) -/

/-- Below the enables only bit 15 of DICR can be set (R61). -/
theorem packInterrupt_low (g : Fin 2) (ie iflag : PerChannel Bool) (mie : Bool) {k : Nat} (hk : k < 16)
    (h : k ≠ 15 ∨ g ≠ 0) : (packInterrupt g ie iflag mie).getLsbD k = false := by
  rw [packInterrupt_getLsbD g ie iflag mie k (by omega), if_neg (by omega), if_neg (by omega)]
  rcases h with h | h
  · rw [if_neg h]
  · simp [h]

/-- A field whose bits are 0 is 0. -/
theorem extractLsb'_zero_eq_zero {v : Word} {n : Nat} (h : ∀ k, k < n → v.getLsbD k = false) :
    v.extractLsb' 0 n = 0#n := by
  apply BitVec.eq_of_getLsbD_eq
  intro k hk
  rw [BitVec.getLsbD_extractLsb', Nat.zero_add, h k hk, Bool.and_false, BitVec.getLsbD_zero]

/-- Settles O13: the answer is the group's packed view, whose bits are the enables and flags and, in DICR, `mie`. -/
theorem interruptReadsPackEnablesAndFlags : Obligations.InterruptReadsPackEnablesAndFlags :=
  fun s =>
    ⟨⟨_, rfl, fun i => packInterrupt_ie_iflag 0 s.ie s.iflag s.mie i, packInterrupt_mie s.ie s.iflag s.mie,
        extractLsb'_zero_eq_zero fun _ hk =>
          packInterrupt_low 0 s.ie s.iflag s.mie (by omega) (.inl (by omega))⟩,
      ⟨_, rfl, fun i => packInterrupt_ie_iflag 1 s.ie s.iflag s.mie i,
        extractLsb'_zero_eq_zero fun _ hk => packInterrupt_low 1 s.ie s.iflag s.mie hk (.inr (by decide))⟩,
      fun hwf => ⟨RegisterAccess.read.row_packedAddress hwf 1, RegisterAccess.read.row_packedAddress hwf 3⟩⟩

/-- A write of a group's interrupt register, channel by channel of both groups (R92, R94). -/
theorem writeInterrupt_groups {g g' : Fin 2} (hg : g ≠ g') (v : Word) (s : State) (i : Fin 8) :
    (writeInterrupt g v s).ie[groupChannel g i] = v.getLsbD (16 + i.val) ∧
      (writeInterrupt g v s).iflag[groupChannel g i] = (s.iflag[groupChannel g i] && !v.getLsbD (24 + i.val)) ∧
      (writeInterrupt g v s).ie[groupChannel g' i] = s.ie[groupChannel g' i] ∧
      (writeInterrupt g v s).iflag[groupChannel g' i] = s.iflag[groupChannel g' i] :=
  ⟨writeInterrupt_ie g v s i, writeInterrupt_iflag g v s i, writeInterrupt_other hg v s i⟩

/-- A write of an interrupt register changes no field but the enables, the flags and `mie` (R92, R94). -/
theorem writeInterrupt_eq_with_interrupts (g : Fin 2) (v : Word) (s : State) : writeInterrupt g v s =
    { s with
      ie := (writeInterrupt g v s).ie, iflag := (writeInterrupt g v s).iflag, mie := (writeInterrupt g v s).mie } := rfl

/-- A write of DICR2 keeps `mie` too (R94). -/
theorem writeInterrupt_dicr2_eq (v : Word) (s : State) : writeInterrupt 1 v s =
    { s with ie := (writeInterrupt 1 v s).ie, iflag := (writeInterrupt 1 v s).iflag } := rfl

/-- Settles O14: the row assigns its group's enables, clears the flags it acknowledges and keeps the other group; group 0's also
assigns `mie`. -/
theorem interruptWritesEnableAndAcknowledge : Obligations.InterruptWritesEnableAndAcknowledge := by
  refine fun s v => ⟨⟨_, rfl, fun i => ?dicr, writeInterrupt_mie 0 v s, ?dicrFrame⟩,
    ⟨_, rfl, fun i => ?dicr2, ?dicr2Frame⟩, fun hwf => ?rows⟩
  case dicr =>
    simp only [State.answerWith_ie, State.answerWith_iflag]
    exact writeInterrupt_groups (by decide) v s i
  case dicr2 =>
    simp only [State.answerWith_ie, State.answerWith_iflag]
    exact writeInterrupt_groups (by decide) v s i
  case dicrFrame =>
    exact congrArg (·.answerWith (some (.write .ok))) (writeInterrupt_eq_with_interrupts 0 v s)
  case dicr2Frame =>
    exact congrArg (·.answerWith (some (.write .ok))) (writeInterrupt_dicr2_eq v s)
  case rows =>
    exact ⟨(RegisterAccess.write v).row_packedAddress hwf 1, (RegisterAccess.write v).row_packedAddress hwf 3⟩

/-! ## Rejected accesses (R95 to R98) -/

/-- A rejected read row of the DMA window is the shared read that answers a draw. -/
theorem exec_readRow_dma (w : Width) (a : Word) (s : State) :
    exec (readRow .dma w a) s = readDraw (badAccess s.cfg w a) .reject w s := by
  cases w <;> rfl

/-- A rejected write row of the DMA window is the shared discarded write. -/
theorem exec_writeRow_dma (a : Word) (d : BusData) (s : State) :
    exec (writeRow .dma a d) s = writeDiscard (badAccess s.cfg d.width a) .reject s := by
  cases d <;> rfl

/-- An access of the window of the wrong width or alignment is one of the BADACCESS rows, and the router selects it
(R97, R98). -/
theorem badAccess_and_row {cfg : Config} {x : Transaction} (hr : region cfg x.addr x.width.bytes = .dma)
    (h : x.width ≠ .w32 ∨ dmaOffset cfg x.addr % 4 ≠ 0) :
    badAccess cfg x.width x.addr = true ∧ x.row cfg = x.regionRow .dma := by
  have hwf : WellFormed cfg (x.regionRow .dma) = true :=
    (x.wellFormed_regionRow cfg .dma).mpr ⟨hr, fun ⟨_, hw, h4⟩ => h.elim (· hw) (· h4)⟩
  exact ⟨(x.wellFormed_regionRow_dma cfg).symm.trans hwf, Transaction.row_of_wellFormed hwf⟩

/-- Settles O15: the router selects the rejected row, and the access is that row's own. -/
theorem rejectedAccessesChangeNothing : Obligations.RejectedAccessesChangeNothing := by
  refine ⟨fun s w a hr h => ?badRead, fun s a d hr h => ?badWrite, fun s c v => ?slot, fun s a v hr h4 ho => ?high⟩
  case badRead =>
    obtain ⟨hbad, hrow⟩ := badAccess_and_row (x := .read w a) hr h
    exact ⟨hrow, (exec_readRow_dma w a s).trans (if_pos hbad)⟩
  case badWrite =>
    obtain ⟨hbad, hrow⟩ := badAccess_and_row (x := .write a d) hr h
    exact ⟨hrow, (exec_writeRow_dma a d s).trans (if_pos hbad)⟩
  case slot =>
    exact ⟨rfl, rfl, fun hwf =>
      ⟨RegisterAccess.read.row_slotAddress hwf c 3, (RegisterAccess.write v).row_slotAddress hwf c 3⟩⟩
  case high =>
    have hhigh : reservedHigh s.cfg a = true := (reservedHigh_iff s.cfg a).mpr ⟨hr, h4, ho⟩
    exact ⟨RegisterAccess.read.row_highAddress hhigh, (RegisterAccess.write v).row_highAddress hhigh,
      if_pos hhigh, if_pos hhigh⟩

/-! ## The numbered interface (R99) -/

theorem execNumberedRead_out_of_range (reg : ChannelReg) {c : Nat} (hc : 16 ≤ c) (s : State) :
    execNumberedRead reg c s = readDraw true .reject .w32 s := dif_neg (by omega)

theorem execNumberedWrite_out_of_range (reg : ChannelReg) {c : Nat} (hc : 16 ≤ c) (v : Word) (s : State) :
    execNumberedWrite reg c v s = writeDiscard true .reject s := dif_neg (by omega)

/-- The read row a register of a channel names (R67, log entry 2). -/
def ChannelReg.readRow (c : ChannelIx) : ChannelReg → Instr
  | .addr => .rd32ChAddr c
  | .bcr => .rd32ChBcr c
  | .ctrl => .rd32ChCtrl c

/-- The write row a register of a channel names (R67, R86). -/
def ChannelReg.writeRow (c : ChannelIx) (v : Word) : ChannelReg → Instr
  | .addr => .wr32ChAddr c v
  | .bcr => .wr32ChBcr c v
  | .ctrl => .wr32ChCtrl c v

theorem execNumberedRead_in_range (reg : ChannelReg) {c : Nat} (hc : c < 16) (s : State) :
    execNumberedRead reg c s = exec (reg.readRow ⟨c, hc⟩) s := by
  cases reg <;> exact dif_pos hc

theorem execNumberedWrite_in_range (reg : ChannelReg) {c : Nat} (hc : c < 16) (v : Word) (s : State) :
    execNumberedWrite reg c v s = exec (reg.writeRow ⟨c, hc⟩ v) s := by
  cases reg <;> exact dif_pos hc

/-- Settles O16: the step is the numbered call on the state without it, split at 16. -/
theorem outOfRangeChannelNumberIsRejected : Obligations.OutOfRangeChannelNumberIsRejected := by
  refine fun s rest reg c v => ⟨fun hc => ?_, fun hc => ?_⟩
  · exact ⟨execNumberedWrite_out_of_range reg hc v _, execNumberedRead_out_of_range reg hc _⟩
  · exact ⟨execNumberedWrite_in_range .ctrl hc v _, execNumberedWrite_in_range .addr hc v _,
      execNumberedWrite_in_range .bcr hc v _, execNumberedRead_in_range .ctrl hc _,
      execNumberedRead_in_range .addr hc _, execNumberedRead_in_range .bcr hc _⟩

/-! ## The write-then-read laws (R100) -/

/-- A priority register is plain storage: its view after a write is the value written. -/
theorem packPriority_writePriority (g : Fin 2) (v : Word) (s : State) :
    packPriority g (writePriority g v s).prio (writePriority g v s).en = v := by
  apply BitVec.eq_of_getLsbD_eq
  intro k hk
  have hdiv : 4 * (k / 4) + k % 4 = k := by omega
  rw [packPriority_getLsbD g _ _ k hk, writePriority_prio, writePriority_en, BitVec.getLsbD_extractLsb']
  split
  case isTrue h3 => rw [← h3, hdiv]
  case isFalse h3 => rw [hdiv, decide_eq_true (by omega), Bool.true_and]

/-- `mask` has the bits of group `g`'s interrupt register that a write stores: the enables and, in DICR, `mie` (R61). -/
def IsInterruptStoredMask (g : Fin 2) (mask : Word) : Prop :=
  ∀ k, k < 32 → mask.getLsbD k = decide (16 ≤ k ∧ k < 24 ∨ k = 15 ∧ g = 0)

theorem isInterruptStoredMask_dicr : IsInterruptStoredMask 0 0x00FF8000#32 := by
  unfold IsInterruptStoredMask
  decide

theorem isInterruptStoredMask_dicr2 : IsInterruptStoredMask 1 0x00FF0000#32 := by
  unfold IsInterruptStoredMask
  decide

theorem flagMask_getLsbD {k : Nat} (hk : k < 32) : (0xFF000000#32).getLsbD k = decide (24 ≤ k) := by
  revert k
  decide

/-- An interrupt register's view after a write: the enables written, and the flags that were set and not acknowledged. -/
theorem packInterrupt_writeInterrupt {g : Fin 2} {mask : Word} (hmask : IsInterruptStoredMask g mask) (v : Word)
    (s : State) :
    packInterrupt g (writeInterrupt g v s).ie (writeInterrupt g v s).iflag (writeInterrupt g v s).mie =
      (v &&& mask) ||| (packInterrupt g s.ie s.iflag s.mie &&& ~~~v &&& 0xFF000000#32) := by
  apply BitVec.eq_of_getLsbD_eq
  intro k hk
  simp only [BitVec.getLsbD_or, BitVec.getLsbD_and, BitVec.getLsbD_not, hmask k hk,
    flagMask_getLsbD hk, packInterrupt_getLsbD g _ _ _ k hk, writeInterrupt_ie, writeInterrupt_iflag, writeInterrupt_mie]
  by_cases hflag : 24 ≤ k
  · have hplace : 24 + k % 8 = k := by omega
    have hnot : ¬ (16 ≤ k ∧ k < 24 ∨ k = 15 ∧ g = 0) := by omega
    simp [hflag, hplace, hnot, hk]
  by_cases hie : 16 ≤ k
  · have hplace : 16 + k % 8 = k := by omega
    simp [hflag, hie, hplace, show k < 24 by omega]
  by_cases hmie : k = 15
  · by_cases hg : g = 0 <;> simp [hmie, hg]
  · simp [hflag, hie, hmie]

/-- A register read answers the value its register is known to hold. -/
theorem State.answer_of_read {x v : Word} (s : State) (h : x = v) :
    (s.answerWith (some (.read .ok (.b32 x)))).answer = some (.read .ok (.b32 v)) := by
  rw [h]
  rfl

/-- Settles O17: each read answers its register or view, and each view after a write is the law of its register. -/
theorem packedViewLaws : Obligations.PackedViewLaws := by
  refine fun s c v => ⟨?stored, ?dicr, ?dicr2, ?repeated⟩
  case stored =>
    simp only [List.forall_mem_cons, List.not_mem_nil, false_imp_iff, implies_true, and_true]
    refine ⟨⟨_, _, rfl, rfl, ?dpcr⟩, ⟨_, _, rfl, rfl, ?dpcr2⟩, ⟨_, _, rfl, rfl, ?addr⟩, ⟨_, _, rfl, rfl, ?bcr⟩,
      ⟨_, _, rfl, rfl, ?ctrl⟩⟩
    case dpcr => exact State.answer_of_read _ (packPriority_writePriority 0 v s)
    case dpcr2 => exact State.answer_of_read _ (packPriority_writePriority 1 v s)
    case addr =>
      exact State.answer_of_read _ (congrArg Channel.addr (PerChannel.get_set_self s.ch c { s.ch[c] with addr := v }))
    case bcr =>
      exact State.answer_of_read _ (congrArg Channel.bcr (PerChannel.get_set_self s.ch c { s.ch[c] with bcr := v }))
    case ctrl =>
      exact State.answer_of_read _ (congrArg Channel.ctrl (PerChannel.get_set_self s.ch c { s.ch[c] with ctrl := v }))
  case dicr =>
    refine ⟨_, _, _, _, rfl, rfl, rfl, rfl, State.answer_of_read _ ?_⟩
    simp only [State.answerWith_ie, State.answerWith_iflag, State.answerWith_mie,
      packInterrupt_writeInterrupt isInterruptStoredMask_dicr]
  case dicr2 =>
    refine ⟨_, _, _, _, rfl, rfl, rfl, rfl, State.answer_of_read _ ?_⟩
    simp only [State.answerWith_ie, State.answerWith_iflag, State.answerWith_mie,
      packInterrupt_writeInterrupt isInterruptStoredMask_dicr2]
  case repeated =>
    simp only [List.forall_mem_cons, List.not_mem_nil, false_imp_iff, implies_true, and_true]
    exact ⟨⟨_, rfl, rfl⟩, ⟨_, rfl, rfl⟩, ⟨_, rfl, rfl⟩, ⟨_, rfl, rfl⟩, ⟨_, rfl, rfl⟩, ⟨_, rfl, rfl⟩, ⟨_, rfl, rfl⟩⟩

end Sys2Proof.Machine
end

section
/-! The family of spec/42_dma_transfer.md: which channel the arbiter picks, what a transfer moves, what a completion does, what
the unit of work of each mode leaves, and what follows of one tick and of a run of ticks. A unit is a body (`UnitBody`,
Laws/Transfer.lean), completed or not: what that says is proved once (`UnitEnds`), and each mode adds what its body moves. -/

namespace Sys2Proof.Machine

/-! ## The arbiter (R102, R103) -/

/-- A channel is eligible where it is enabled, busy and of priority greater than zero (R102). -/
theorem eligible_iff {s : State} {c : ChannelIx} : eligible s c = true ↔
    s.en[c] = true ∧ s.ch[c].ctrl.getLsbD 24 = true ∧ 0 < s.prio[c].toNat := by
  have hp : s.prio[c] ≠ 0#3 ↔ 0 < s.prio[c].toNat := by
    rw [Nat.pos_iff_ne_zero, ne_eq, ← BitVec.toNat_inj]
    rfl
  simp only [eligible, ctrlBusy, Bool.and_eq_true, decide_eq_true_eq, hp, and_assoc]

/-- Channel `w` goes before channel `c`: its priority is larger, or the same and its index smaller (R103). -/
def Precedes (s : State) (w c : ChannelIx) : Prop :=
  s.prio[c].toNat < s.prio[w].toNat ∨ (s.prio[c] = s.prio[w] ∧ w < c)

theorem Precedes.trans {s : State} {x y z : ChannelIx} (h₁ : Precedes s x y) (h₂ : Precedes s y z) : Precedes s x z := by
  simp only [Precedes, ← BitVec.toNat_inj, Fin.lt_def] at *
  omega

theorem Precedes.asymm {s : State} {x y : ChannelIx} (h₁ : Precedes s x y) : ¬ Precedes s y x := by
  simp only [Precedes, ← BitVec.toNat_inj, Fin.lt_def] at *
  omega

/-- Of two channels in rising order the later one goes before the earlier only with a larger priority (R103). -/
theorem precedes_of_not_lt {s : State} {x c : ChannelIx} (hx : x < c) (hp : ¬ s.prio[x] < s.prio[c]) :
    Precedes s x c := by
  rcases Nat.lt_or_eq_of_le (BitVec.not_lt.mp hp) with hlt | heq
  · exact .inl hlt
  · exact .inr ⟨BitVec.eq_of_toNat_eq heq, hx⟩

theorem arbitrate_cons_ineligible {s : State} {c : ChannelIx} (hc : ¬ eligible s c = true) (cs : List ChannelIx)
    (best : Option ChannelIx) : arbitrate s (c :: cs) best = arbitrate s cs best :=
  congrArg (arbitrate s cs) (if_neg hc)

theorem arbitrate_cons_first {s : State} {c : ChannelIx} (hc : eligible s c = true) (cs : List ChannelIx) :
    arbitrate s (c :: cs) none = arbitrate s cs (some c) :=
  congrArg (arbitrate s cs) (if_pos hc)

theorem arbitrate_cons_better {s : State} {c : ChannelIx} (hc : eligible s c = true) (cs : List ChannelIx)
    {x : ChannelIx} (hp : s.prio[x] < s.prio[c]) : arbitrate s (c :: cs) (some x) = arbitrate s cs (some c) :=
  congrArg (arbitrate s cs) ((if_pos hc).trans (if_pos hp))

theorem arbitrate_cons_worse {s : State} {c : ChannelIx} (hc : eligible s c = true) (cs : List ChannelIx)
    {x : ChannelIx} (hp : ¬ s.prio[x] < s.prio[c]) : arbitrate s (c :: cs) (some x) = arbitrate s cs (some x) :=
  congrArg (arbitrate s cs) ((if_pos hc).trans (if_neg hp))

/-- The scan in rising order from a best so far ends in a channel that no eligible one of the scan goes before. -/
theorem arbitrate_leads {s : State} {cs : List ChannelIx} {x : ChannelIx} (hs : (x :: cs).Pairwise (· < ·)) :
    ∃ w, arbitrate s cs (some x) = some w ∧ (w = x ∨ Precedes s w x) ∧
      ∀ c ∈ cs, eligible s c = true → w = c ∨ Precedes s w c := by
  induction cs generalizing x with
  | nil => exact ⟨x, rfl, .inl rfl, by simp⟩
  | cons c cs ih =>
    obtain ⟨hx, hcs⟩ := List.pairwise_cons.mp hs
    have hskip : (x :: cs).Pairwise (· < ·) :=
      List.pairwise_cons.mpr ⟨fun y hy => hx y (List.mem_cons_of_mem _ hy), (List.pairwise_cons.mp hcs).2⟩
    have hxc : x < c := hx c List.mem_cons_self
    by_cases hc : eligible s c = true
    · by_cases hp : s.prio[x] < s.prio[c]
      · obtain ⟨w, hw, hwc, hrest⟩ := ih hcs
        refine ⟨w, by rw [arbitrate_cons_better hc cs hp, hw], .inr ?_, List.forall_mem_cons.mpr ⟨fun _ => hwc, hrest⟩⟩
        have hbefore : Precedes s c x := .inl hp
        exact hwc.elim (fun h => h ▸ hbefore) (fun h => h.trans hbefore)
      · obtain ⟨w, hw, hwx, hrest⟩ := ih hskip
        refine ⟨w, by rw [arbitrate_cons_worse hc cs hp, hw], hwx,
          List.forall_mem_cons.mpr ⟨fun _ => .inr ?_, hrest⟩⟩
        have hbefore : Precedes s x c := precedes_of_not_lt hxc hp
        exact hwx.elim (fun h => h ▸ hbefore) (fun h => h.trans hbefore)
    · obtain ⟨w, hw, hwx, hrest⟩ := ih hskip
      exact ⟨w, by rw [arbitrate_cons_ineligible hc, hw], hwx,
        List.forall_mem_cons.mpr ⟨fun he => absurd he hc, hrest⟩⟩

/-- The whole scan: no channel of it is eligible, or it ends in one that no eligible channel of it goes before. -/
theorem arbitrate_cases {s : State} {cs : List ChannelIx} (hs : cs.Pairwise (· < ·)) :
    (arbitrate s cs none = none ∧ ∀ c ∈ cs, ¬ eligible s c = true) ∨
      ∃ w, arbitrate s cs none = some w ∧ ∀ c ∈ cs, eligible s c = true → w = c ∨ Precedes s w c := by
  induction cs with
  | nil => exact .inl ⟨rfl, by simp⟩
  | cons c cs ih =>
    by_cases hc : eligible s c = true
    · obtain ⟨w, hw, hwc, hrest⟩ := arbitrate_leads (s := s) hs
      exact .inr ⟨w, by rw [arbitrate_cons_first hc, hw], List.forall_mem_cons.mpr ⟨fun _ => hwc, hrest⟩⟩
    · rw [arbitrate_cons_ineligible hc]
      rcases ih (List.pairwise_cons.mp hs).2 with ⟨hnone, hrest⟩ | ⟨w, hw, hrest⟩
      · exact .inl ⟨hnone, List.forall_mem_cons.mpr ⟨hc, hrest⟩⟩
      · exact .inr ⟨w, hw, List.forall_mem_cons.mpr ⟨fun he => absurd he hc, hrest⟩⟩

theorem channels_rising : channels.Pairwise (· < ·) := by decide

theorem mem_channels (c : ChannelIx) : c ∈ channels := by
  revert c
  decide

/-- No channel is eligible and the tick has no winner, or the winner is one that no eligible channel goes before. -/
theorem winner_cases (s : State) : (winner s = none ∧ ∀ c, ¬ eligible s c = true) ∨
    ∃ w, winner s = some w ∧ ∀ c, eligible s c = true → w = c ∨ Precedes s w c := by
  rcases arbitrate_cases (s := s) channels_rising with ⟨hnone, hrest⟩ | ⟨w, hw, hrest⟩
  · exact .inl ⟨hnone, fun c => hrest c (mem_channels c)⟩
  · exact .inr ⟨w, hw, fun c => hrest c (mem_channels c)⟩

theorem winner_eq_none_iff {s : State} : winner s = none ↔ ∀ c, ¬ eligible s c = true := by
  rcases winner_cases s with ⟨hnone, hrest⟩ | ⟨w, hw, -⟩
  · exact ⟨fun _ => hrest, fun _ => hnone⟩
  · rw [hw]
    exact ⟨nofun, fun h => absurd (winner_eligible hw) (h w)⟩

/-- The winner is the one eligible channel that goes before every other (R103). -/
theorem winner_eq_some_iff {s : State} {w : ChannelIx} : winner s = some w ↔
    eligible s w = true ∧ ∀ c, c ≠ w → eligible s c = true → Precedes s w c := by
  constructor
  · intro hw
    refine ⟨winner_eligible hw, fun c hne hc => ?_⟩
    rcases winner_cases s with ⟨hnone, -⟩ | ⟨w', hw', hrest⟩
    · cases hnone.symm.trans hw
    · cases hw'.symm.trans hw
      exact (hrest c hc).resolve_left hne.symm
  · rintro ⟨hw, hrest⟩
    rcases winner_cases s with ⟨-, hnone⟩ | ⟨w', hw', hrest'⟩
    · exact absurd hw (hnone w)
    · rcases hrest' w hw with rfl | hbefore
      · exact hw'
      · by_cases hne : w' = w
        · rw [hw', hne]
        · exact absurd hbefore (hrest w' hne (winner_eligible hw')).asymm

/-- Settles O18: the scan's result is the one eligible channel that goes before every other, with eligibility written out. -/
theorem arbiterPicksHighestPriorityLowestIndex : Obligations.ArbiterPicksHighestPriorityLowestIndex := by
  intro s
  simp only [← eligible_iff]
  exact ⟨winner_eq_none_iff, fun w => winner_eq_some_iff⟩

/-! ## The tick and the rows it performs (R101, R104, R108) -/

theorem exec_tick_idle {s : State} (hw : winner s = none) : exec .tick s = .next (s.answerWith none) := by
  rw [exec, execTick, hw]

theorem exec_tick_winner {s : State} {c : ChannelIx} (hw : winner s = some c) :
    exec .tick s = runUnit c (s.answerWith none) := by
  rw [exec, execTick, hw]

/-- The row that the winner's control word selects is its unit of work (R63, R104, log entry 11). -/
theorem exec_decodeUnit {s : State} {c : ChannelIx} (hw : winner s = some c) :
    exec (decodeUnit c s.ch[c].ctrl) s = runUnit c (s.answerWith none) := by
  unfold decodeUnit runUnit
  rw [State.answerWith_ch]
  cases hm : ctrlSync s.ch[c].ctrl
  case burst => exact if_pos (selects_iff.mpr ⟨hw, hm, rfl⟩)
  case block => exact if_pos (selects_iff.mpr ⟨hw, hm, rfl⟩)
  case list => exact if_pos (selects_iff.mpr ⟨hw, hm, rfl⟩)
  case reserved => rfl

/-- Settles O19: both are the winner's unit of work. -/
theorem tickRunsTheWinnersUnit : Obligations.TickRunsTheWinnersUnit :=
  fun _ => ⟨exec_tick_idle, fun _ hw => (exec_tick_winner hw).trans (exec_decodeUnit hw).symm⟩

/-- The sync mode is the field `ctrl[10:9]` (R16, R63). -/
theorem ctrlSync_eq_iff (ctrl : Word) (mode : SyncMode) :
    ctrlSync ctrl = mode ↔ ctrl.extractLsb' 9 2 = BitVec.ofNat 2 mode.code := by
  have hfield : ctrl.extractLsb' 9 2 = BitVec.ofBool (ctrl.getLsbD 10) ++ BitVec.ofBool (ctrl.getLsbD 9) := by
    apply BitVec.eq_of_getLsbD_eq
    intro k hk
    rw [BitVec.getLsbD_extractLsb', BitVec.getLsbD_append]
    interval_cases k <;> simp
  rw [hfield, ctrlSync]
  cases ctrl.getLsbD 10 <;> cases ctrl.getLsbD 9 <;> cases mode <;> decide

/-- Settles O26: the mode of the field's value 3 has no unit, and the register holds any value. -/
theorem reservedSyncModeIsRefused : Obligations.ReservedSyncModeIsRefused := by
  refine ⟨fun _ _ _ => rfl, fun s c hw h3 => ?_, fun s c v _ => ⟨_, _, rfl, rfl, ?_⟩⟩
  · have hm : ctrlSync s.ch[c].ctrl = .reserved := (ctrlSync_eq_iff _ .reserved).mpr h3
    rw [exec_tick_winner hw, runUnit, State.answerWith_ch, hm]
  · exact State.answer_of_read _ (congrArg Channel.ctrl (PerChannel.get_set_self s.ch c { s.ch[c] with ctrl := v }))

/-! ## Completion (R111, R117) -/

/-- Settles O21: the one equation of a completion, read field by field. -/
theorem completionSetsFlagAndGatesSignal : Obligations.CompletionSetsFlagAndGatesSignal := by
  intro s c
  have hself : (complete c s).ch[c] = { s.ch[c] with ctrl := clearBusy s.ch[c].ctrl } := by
    rw [complete_ch, PerChannel.get_set_self]
  refine ⟨?fields, fun c' => ?flag, fun c' hc => ?others, by rw [hself], by rw [hself], fun k => ?ctrl⟩
  case fields =>
    rw [complete_ch, complete_iflag]
    exact complete_eq c s
  case flag => rw [complete_iflag, PerChannel.get_set]
  case others => rw [complete_ch, PerChannel.get_set_other _ _ hc]
  case ctrl => rw [hself, clearBusy_getLsbD]

/-! ## What a transfer moves (R109, R110) -/

@[simp] theorem devIn_cfg (c : ChannelIx) (s : State) : (devIn c s).2.cfg = s.cfg := by
  obtain ⟨d, -, -, h⟩ := devIn_state c s
  rw [h]

@[simp] theorem devIn_byteAt (c : ChannelIx) (s : State) (b : Bank) (o : Nat) :
    (devIn c s).2.byteAt b o = s.byteAt b o := by
  obtain ⟨d, -, -, h⟩ := devIn_state c s
  rw [h]
  cases b <;> rfl

/-- The port's bytes after one is taken are those that came after it (R110). -/
theorem deviceByte_devIn (c : ChannelIx) (s : State) (i : Nat) :
    deviceByte (devIn c s).2 c i = deviceByte s c (i + 1) := by
  unfold devIn
  split
  case h_1 b q h => simp only [deviceByte, PerChannel.get_set_self, h, List.getElem?_cons_succ, List.length_cons,
      Nat.add_sub_add_right]
  case h_2 h => simp only [deviceByte, State.drawn_devInput, State.drawn_draws, h, List.getElem?_nil, List.length_nil,
      Nat.sub_zero, Nat.add_assoc, Nat.add_comm 1]

theorem transferAddress_zero (a : Word) : transferAddress a 0 = a := by simp [transferAddress]

/-- The addresses of a transfer after its first byte are those of the transfer from the next address. -/
theorem transferAddress_succ (a : Word) (i : Nat) : transferAddress a (i + 1) = transferAddress (a + 1#32) i := by
  apply BitVec.eq_of_toNat_eq
  simp only [transferAddress, BitVec.toNat_add, BitVec.toNat_ofNat]
  omega

/-- A transfer of at most `2^32` bytes does not come back to its first address. -/
theorem transferAddress_succ_ne {i n : Nat} (a : Word) (hi : i < n) (hn : n < 2 ^ 32) : transferAddress a (i + 1) ≠ a := by
  intro h
  have := congrArg BitVec.toNat h
  simp only [transferAddress, BitVec.toNat_add, BitVec.toNat_ofNat] at this
  omega

@[simp] theorem moveByte_cfg (c : ChannelIx) (a : Word) (dir : Direction) (s : State) :
    (moveByte c a dir s).cfg = s.cfg := by rw [(moveByte_eq c a dir s).1]

/-- A byte from the device is the port's next, stored where its address is in a memory (R109). -/
theorem moveByte_fromDevice_byteAt (c : ChannelIx) (a : Word) (s : State) (b : Bank) (o : Nat) :
    (moveByte c a .fromDevice s).byteAt b o =
      if region s.cfg a 1 = b.region ∧ o = bankOffset s.cfg b a then deviceByte s c 0 else s.byteAt b o := by
  simp only [moveByte]
  rw [busWriteByte_byteAt, devIn_byte, devIn_cfg, devIn_byteAt]

/-- A byte from the device takes one byte of the port and records what its bus write does (R109). -/
theorem moveByte_fromDevice_fields (c : ChannelIx) (a : Word) (s : State) :
    (moveByte c a .fromDevice s).devInput = s.devInput.set c (s.devInput[c].drop 1) ∧
      (moveByte c a .fromDevice s).events = byteWriteEvents s.cfg a (deviceByte s c 0) ++ s.events := by
  obtain ⟨d, -, -, h⟩ := devIn_state c s
  simp only [moveByte]
  rw [busWriteByte_eq, devIn_byte, h]
  exact ⟨rfl, rfl⟩

theorem deviceByte_moveByte (c : ChannelIx) (a : Word) (s : State) (i : Nat) :
    deviceByte (moveByte c a .fromDevice s) c i = deviceByte s c (i + 1) := by
  rw [← deviceByte_devIn]
  simp only [moveByte]
  rw [busWriteByte_eq]
  rfl

/-- A byte to the device changes no memory and no port, and hands the byte read to the port (R109, R110). -/
theorem moveByte_toDevice_fields (c : ChannelIx) (a : Word) (s : State) :
    (∀ b o, (moveByte c a .toDevice s).byteAt b o = s.byteAt b o) ∧
      (moveByte c a .toDevice s).devInput = s.devInput ∧
      (moveByte c a .toDevice s).events = .devOut c (busReadByte a s).1 :: s.events := by
  obtain ⟨d, -, -, h⟩ := busReadByte_state a s
  simp only [moveByte, devOut, State.emit_byteAt, State.emit_devInput, State.emit_events, h]
  exact ⟨fun b o => by cases b <;> rfl, trivial, trivial⟩

theorem byteWriteEvents_reverse (cfg : Config) (a : Word) (x : Byte) :
    (byteWriteEvents cfg a x).reverse = byteWriteEvents cfg a x := by
  unfold byteWriteEvents
  split <;> rfl

theorem MovedBytes.zero (s : State) (c : ChannelIx) (a : Word) (dir : Direction) : MovedBytes s s c a 0 dir [] := by
  cases dir with
  | fromDevice => exact ⟨fun _ _ h => absurd h (Nat.not_lt_zero _), fun _ _ _ => rfl, ⟨rfl, fun _ _ => rfl⟩, rfl⟩
  | toDevice => exact ⟨fun _ _ => rfl, rfl, [], rfl, rfl, fun _ _ h => absurd h (Nat.not_lt_zero _)⟩

/-- A byte from the device and then a transfer from the next address: no later byte is stored over the first, whose address the
others do not reach. -/
theorem MovedBytes.cons_fromDevice {s t : State} {c : ChannelIx} {a : Word} {n : Nat} {moved : List Event}
    (hn : n < 2 ^ 32) (h : MovedBytes (moveByte c a .fromDevice s) t c (a + 1#32) n .fromDevice moved) :
    MovedBytes s t c a (n + 1) .fromDevice (byteWriteEvents s.cfg a (deviceByte s c 0) ++ moved) := by
  obtain ⟨hin, -⟩ := moveByte_fromDevice_fields c a s
  obtain ⟨hstored, hkept, ⟨hport, hports⟩, hmoved⟩ := h
  simp only [moveByte_cfg, deviceByte_moveByte, ← transferAddress_succ] at hstored hkept hmoved
  refine ⟨fun b i hi hr => ?stored, fun b o ho => ?kept, ⟨?port, fun c' hc => ?ports⟩, ?events⟩
  case stored =>
    cases i with
    | zero =>
      rw [transferAddress_zero] at hr ⊢
      rw [hkept, moveByte_fromDevice_byteAt, if_pos ⟨hr, rfl⟩]
      rintro ⟨j, hj, hrj, hoj⟩
      rw [← transferAddress_succ] at hrj hoj
      exact transferAddress_succ_ne a hj hn (bankOffset_injective hrj hr hoj)
    | succ i => exact hstored b i (by omega) hr
  case kept =>
    rw [hkept, moveByte_fromDevice_byteAt, if_neg]
    · rintro ⟨hr, rfl⟩
      exact ho ⟨0, by omega, by rwa [transferAddress_zero], by rw [transferAddress_zero]⟩
    · rintro ⟨j, hj, hrj, hoj⟩
      exact ho ⟨j + 1, by omega, by rwa [transferAddress_succ], by rwa [transferAddress_succ]⟩
  case port => rw [hport, hin, PerChannel.get_set_self, List.drop_drop, Nat.add_comm 1]
  case ports => rw [hports c' hc, hin, PerChannel.get_set_other _ _ hc]
  case events => rw [hmoved, List.range_succ_eq_map, List.flatMap_cons, List.flatMap_map, transferAddress_zero]

/-- A byte to the device and then a transfer from the next address. -/
theorem MovedBytes.cons_toDevice {s t : State} {c : ChannelIx} {a : Word} {n : Nat} {moved : List Event}
    (h : MovedBytes (moveByte c a .toDevice s) t c (a + 1#32) n .toDevice moved) :
    MovedBytes s t c a (n + 1) .toDevice (.devOut c (busReadByte a s).1 :: moved) := by
  obtain ⟨hbytes, hin, -⟩ := moveByte_toDevice_fields c a s
  obtain ⟨hkept, hports, bytes, hlen, rfl, hread⟩ := h
  simp only [moveByte_cfg, hbytes, ← transferAddress_succ] at hkept hread
  refine ⟨hkept, hports.trans hin, (busReadByte a s).1 :: bytes, by rw [List.length_cons, hlen], rfl, fun b i hi hr => ?_⟩
  cases i with
  | zero =>
    rw [transferAddress_zero] at hr ⊢
    rw [busReadByte_bank hr, List.getElem?_cons_zero]
  | succ i => exact hread b i (by omega) hr

/-- A transfer moves its bytes and the history gains their events (R109). -/
theorem xfer_moves {n : Nat} (hn : n ≤ 2 ^ 32) (s : State) (c : ChannelIx) (a : Word) (dir : Direction) :
    ∃ moved, MovedBytes s (xfer c a n dir s) c a n dir moved ∧
      (xfer c a n dir s).events = moved.reverse ++ s.events := by
  induction n generalizing s a with
  | zero => exact ⟨[], .zero s c a dir, rfl⟩
  | succ n ih =>
    obtain ⟨moved, hmoved, hev⟩ := ih (by omega) (moveByte c a dir s) (a + 1#32)
    rw [xfer]
    cases dir with
    | fromDevice =>
      refine ⟨_, hmoved.cons_fromDevice (by omega), ?_⟩
      rw [hev, (moveByte_fromDevice_fields c a s).2, List.reverse_append, byteWriteEvents_reverse, List.append_assoc]
    | toDevice =>
      refine ⟨_, hmoved.cons_toDevice, ?_⟩
      rw [hev, (moveByte_toDevice_fields c a s).2.2, List.reverse_cons, List.append_assoc, List.singleton_append]

/-- Settles O20: a transfer moves its bytes one by one, and changes only the fields that a moved byte does. -/
theorem transferMovesEachByte : Obligations.TransferMovesEachByte := by
  intro s c a n dir hn
  obtain ⟨moved, hmoved, hev⟩ := xfer_moves hn s c a dir
  exact ⟨moved, hmoved, by rw [← hev]; exact (xfer_eq c a n dir s).1⟩

/-- What a transfer moves is said of the memories, the port and the draws of the two states alone. -/
theorem MovedBytes.congr {s s' t t' : State} {c : ChannelIx} {a : Word} {n : Nat} {dir : Direction} {moved : List Event}
    (h : MovedBytes s t c a n dir moved) (hcfg : s'.cfg = s.cfg) (hin : s'.devInput = s.devInput)
    (hdraws : s'.draws = s.draws) (hbytes : ∀ b o, s'.byteAt b o = s.byteAt b o)
    (hin' : t'.devInput = t.devInput) (hbytes' : ∀ b o, t'.byteAt b o = t.byteAt b o) :
    MovedBytes s' t' c a n dir moved := by
  cases dir <;> simpa only [MovedBytes, deviceByte, hcfg, hin, hdraws, hbytes, hin', hbytes'] using h

/-- A transfer takes bytes from its own channel's port alone (R110). -/
theorem MovedBytes.devInput_other {s t : State} {c c' : ChannelIx} {a : Word} {n : Nat} {dir : Direction}
    {moved : List Event} (h : MovedBytes s t c a n dir moved) (hc : c' ≠ c) : t.devInput[c'] = s.devInput[c'] := by
  cases dir with
  | fromDevice =>
    obtain ⟨-, -, ⟨-, hports⟩, -⟩ := h
    exact hports c' hc
  | toDevice =>
    obtain ⟨-, hports, -⟩ := h
    rw [hports]

/-! ## A unit of work before it completes, and its end (R104, R111) -/

@[simp] theorem complete_pending (c : ChannelIx) (s : State) :
    (complete c s).pending = (s.pending || (s.ie[c] && s.mie)) := by rw [complete_eq]
@[simp] theorem complete_memDraw (c : ChannelIx) (s : State) : (complete c s).memDraw = s.memDraw := by rw [complete_eq]
@[simp] theorem complete_draws (c : ChannelIx) (s : State) : (complete c s).draws = s.draws := by rw [complete_eq]
@[simp] theorem complete_devInput (c : ChannelIx) (s : State) : (complete c s).devInput = s.devInput := by rw [complete_eq]
@[simp] theorem complete_answer (c : ChannelIx) (s : State) : (complete c s).answer = s.answer := by rw [complete_eq]

theorem Completes.idle {c : ChannelIx} {s t : State} (h : Completes s t c) : ctrlBusy t.ch[c].ctrl = false := by
  obtain ⟨hctrl, -, -⟩ := h
  rw [hctrl, ctrlBusy_clearBusy]

theorem Completes.flagged {c : ChannelIx} {s t : State} (h : Completes s t c) : t.iflag[c] = true := by
  obtain ⟨-, hflag, -⟩ := h
  rw [hflag c, if_pos rfl]

theorem Completes.sink {c : ChannelIx} {s t : State} (h : Completes s t c) :
    t.pending = (s.pending || (s.ie[c] && s.mie)) := by
  obtain ⟨-, -, hpending⟩ := h
  exact hpending

theorem StaysActive.ctrl {c : ChannelIx} {s t : State} (h : StaysActive s t c) : t.ch[c].ctrl = s.ch[c].ctrl := by
  obtain ⟨hctrl, -, -⟩ := h
  exact hctrl

/-- From `s` a unit of work of channel `c` has come to `u` and has not completed. -/
structure UnitActive (c : ChannelIx) (s u : State) : Prop where
  frame : EngineFrame s u c
  active : StaysActive s u c
  answer : u.answer = none

theorem UnitBody.unitActive {c : ChannelIx} {s u : State} (h : UnitBody c (s.answerWith none) u) : UnitActive c s u where
  frame := by
    refine ⟨fun c' hc => ?_, h.prio, h.en, h.ie, h.mie, h.cfg, h.schedule, ?_, h.draws_le⟩
    · rw [h.eq]
      exact PerChannel.get_set_other s.ch _ hc
    · rw [h.eq, State.answerWith_memDraw]
  active := ⟨h.ctrl c, h.iflag, h.pending⟩
  answer := by rw [h.eq, State.answerWith_answer]

/-- From `s`, by way of `u`, a unit of work of channel `c` has ended in `t`: completed where `done` holds, else still Active. -/
structure UnitEnds (c : ChannelIx) (s u t : State) (done : Prop) : Prop where
  frame : EngineFrame s t c
  answer : t.answer = none
  fields : t = { u with ch := t.ch, iflag := t.iflag, pending := t.pending, events := t.events }
  addr : t.ch[c].addr = u.ch[c].addr
  bcr : t.ch[c].bcr = u.ch[c].bcr
  completes : done → Completes s t c ∧ t.events = completionEvents s c ++ u.events
  staysActive : ¬ done → StaysActive s t c ∧ t.events = u.events

/-- A completion ends a unit (R111). -/
theorem UnitActive.ends_complete {c : ChannelIx} {s u : State} (h : UnitActive c s u) {done : Prop} (hd : done) :
    UnitEnds c s u (complete c u) done := by
  obtain ⟨⟨hothers, hprio, hen, hie, hmie, hcfg, hsched, hdraw, hdraws⟩, ⟨hctrl, hiflag, hpending⟩, hans⟩ := h
  have hself : (complete c u).ch[c] = { u.ch[c] with ctrl := clearBusy u.ch[c].ctrl } := by
    rw [complete_ch, PerChannel.get_set_self]
  refine ⟨⟨fun c' hc => ?others, ?enables⟩, ?answer, ?fields, by rw [hself], by rw [hself],
    fun _ => ⟨⟨?ctrl, fun c' => ?flag, ?sink⟩, ?events⟩, fun hn => absurd hd hn⟩
  case others => rw [complete_ch, PerChannel.get_set_other _ _ hc, hothers c' hc]
  case fields => rw [complete_eq]
  case ctrl => rw [hself, hctrl]
  case flag => rw [complete_iflag, PerChannel.get_set, hiflag]
  case sink => rw [complete_pending, hpending, hie, hmie]
  case events => rw [complete_events, completionEvents, completionEvents, hie, hmie, hpending]
  case enables =>
    simp only [complete_prio, complete_en, complete_ie, complete_mie, complete_cfg, complete_schedule, complete_memDraw,
      complete_draws]
    exact ⟨hprio, hen, hie, hmie, hcfg, hsched, hdraw, hdraws⟩
  case answer => rw [complete_answer, hans]

/-- A unit that does not complete ends as it is. -/
theorem UnitActive.ends_active {c : ChannelIx} {s u : State} (h : UnitActive c s u) {done : Prop} (hd : ¬ done) :
    UnitEnds c s u u done :=
  ⟨h.frame, h.answer, rfl, rfl, rfl, fun hn => absurd hn hd, fun _ => ⟨h.active, rfl⟩⟩

theorem UnitActive.ends {c : ChannelIx} {s u : State} (h : UnitActive c s u) {test done : Prop} [Decidable test]
    (ht : test ↔ done) : UnitEnds c s u (if test then complete c u else u) done := by
  split
  case isTrue hd => exact h.ends_complete (ht.mp hd)
  case isFalse hd => exact h.ends_active (mt ht.mpr hd)

/-- What has moved is not touched by the end of the unit. -/
theorem UnitEnds.moved {c : ChannelIx} {s s' u t : State} {done : Prop} (h : UnitEnds c s u t done) {a : Word} {n : Nat}
    {dir : Direction} {moved : List Event} (hm : MovedBytes s' u c a n dir moved) : MovedBytes s' t c a n dir moved := by
  refine hm.congr rfl rfl rfl (fun _ _ => rfl) ?_ (fun b o => ?_)
  · rw [h.fields]
  · rw [h.fields]
    cases b <;> rfl

/-- A channel that keeps its control word, with every other as it was, leaves the arbiter its choice (R103, R145). -/
theorem winner_of_staysActive {c : ChannelIx} {s t : State} (hf : EngineFrame s t c) (ha : StaysActive s t c) :
    winner t = winner s := by
  obtain ⟨hothers, hprio, hen, -⟩ := hf
  refine winner_congr hprio fun c' => ?_
  have hbusy : t.ch[c'].ctrl = s.ch[c'].ctrl := by
    by_cases hc : c' = c
    · rw [hc, ha.ctrl]
    · rw [hothers c' hc]
  simp only [eligible, hen, hprio, hbusy]

/-! ## The row a tick performs (R63, R104) -/

/-- Where the winner's control word selects a row and its unit ends, the row and the tick both leave what the unit leaves. -/
theorem exec_row_and_tick {s t : State} {c : ChannelIx} {i : Instr} (hw : winner s = some c)
    (hi : decodeUnit c s.ch[c].ctrl = i) (ht : runUnit c (s.answerWith none) = .next t) :
    exec i s = .next t ∧ exec .tick s = .next t := by
  subst hi
  exact ⟨(exec_decodeUnit hw).trans ht, (exec_tick_winner hw).trans ht⟩

/-! ## Burst and block mode (R105, R106) -/

/-- What a unit of burst or block mode leaves in `t`: a block moved where `moves` holds and nothing else, and the channel
completed where `done` holds. -/
structure BlockUnit (c : ChannelIx) (dir : Direction) (s t : State) (moves done : Prop) (moved : List Event) : Prop where
  frame : EngineFrame s t c
  answer : t.answer = none
  block : moves →
    MovedBytes s t c s.ch[c].addr (bcrSize s.ch[c].bcr) dir moved ∧
    t.ch[c].addr = s.ch[c].addr + BitVec.ofNat 32 (bcrSize s.ch[c].bcr) ∧
    t.ch[c].bcr = bcrWithCount s.ch[c].bcr (bcrCount s.ch[c].bcr - 1)
  nothing : ¬ moves →
    moved = [] ∧ t.ram = s.ram ∧ t.cram = s.cram ∧ t.devInput = s.devInput ∧ t.draws = s.draws ∧
    t.ch[c].addr = s.ch[c].addr ∧ t.ch[c].bcr = s.ch[c].bcr
  completes : done → Completes s t c ∧ t.events = completionEvents s c ++ moved.reverse ++ s.events
  staysActive : ¬ done → StaysActive s t c ∧ t.events = moved.reverse ++ s.events

theorem moveBlock_self (c : ChannelIx) (dir : Direction) (s : State) : (moveBlock c dir s).ch[c] =
    { s.ch[c] with
      addr := s.ch[c].addr + BitVec.ofNat 32 (bcrSize s.ch[c].bcr)
      bcr := bcrWithCount s.ch[c].bcr (bcrCount s.ch[c].bcr - 1) } := by
  simp only [moveBlock, State.setBcr_ch, State.setAddr_ch, xfer_ch, PerChannel.get_set_self]

/-- A block moves its bytes (R105, R106). -/
theorem moveBlock_moves (c : ChannelIx) (dir : Direction) (s : State) :
    ∃ moved, MovedBytes s (moveBlock c dir s) c s.ch[c].addr (bcrSize s.ch[c].bcr) dir moved ∧
      (moveBlock c dir s).events = moved.reverse ++ s.events := by
  have hn := bcrSize_lt s.ch[c].bcr
  obtain ⟨moved, hmoved, hev⟩ := xfer_moves (n := bcrSize s.ch[c].bcr) (by omega) s c s.ch[c].addr dir
  exact ⟨moved, hmoved.congr rfl rfl rfl (fun _ _ => rfl) rfl (fun b o => by simp [moveBlock]), hev⟩

/-- A unit that moves a block, ended. -/
theorem UnitEnds.blockUnit {c : ChannelIx} {dir : Direction} {s t : State} {moves done : Prop}
    (h : UnitEnds c s (moveBlock c dir (s.answerWith none)) t done) (hm : moves) :
    ∃ moved, BlockUnit c dir s t moves done moved := by
  obtain ⟨moved, hmoved, hev⟩ := moveBlock_moves c dir (s.answerWith none)
  have hmoved' := (h.moved hmoved).congr (s' := s) rfl rfl rfl (by simp) rfl (fun _ _ => rfl)
  have hself := moveBlock_self c dir (s.answerWith none)
  refine ⟨moved, h.frame, h.answer, fun _ => ⟨hmoved', by rw [h.addr, hself]; rfl, by rw [h.bcr, hself]; rfl⟩,
    fun hn => absurd hm hn, fun hd => ?_, fun hd => ?_⟩
  · obtain ⟨hc, he⟩ := h.completes hd
    exact ⟨hc, by rw [he, hev, List.append_assoc]; rfl⟩
  · obtain ⟨ha, he⟩ := h.staysActive hd
    exact ⟨ha, by rw [he, hev]; rfl⟩

/-- A unit that moves nothing, ended. -/
theorem UnitEnds.blockUnit_idle {c : ChannelIx} {dir : Direction} {s t : State} {moves done : Prop}
    (h : UnitEnds c s (s.answerWith none) t done) (hm : ¬ moves) : BlockUnit c dir s t moves done [] := by
  refine ⟨h.frame, h.answer, fun hn => absurd hn hm, fun _ => ⟨rfl, ?_, ?_, ?_, ?_, h.addr, h.bcr⟩, fun hd => ?_,
    fun hd => h.staysActive hd⟩
  · rw [h.fields, State.answerWith_ram]
  · rw [h.fields, State.answerWith_cram]
  · rw [h.fields, State.answerWith_devInput]
  · rw [h.fields, State.answerWith_draws]
  · simpa using h.completes hd

/-- The common form of the two modes' units: a block moved or not, then the test of the register that is left. -/
theorem completeIf_blockUnit {c : ChannelIx} {dir : Direction} {s : State} {test : Word → Bool} {moves done : Prop}
    [Decidable moves]
    (hmoves : moves → (test (bcrWithCount s.ch[c].bcr (bcrCount s.ch[c].bcr - 1)) = true ↔ done))
    (hidle : ¬ moves → (test s.ch[c].bcr = true ↔ done)) :
    ∃ moved, BlockUnit c dir s
      (completeIf test c (if moves then moveBlock c dir (s.answerWith none) else s.answerWith none)) moves done moved := by
  unfold completeIf
  split
  case isTrue hm =>
    refine ((moveBlock_body c dir (s.answerWith none)).unitActive.ends ?_).blockUnit hm
    rw [moveBlock_self]
    exact hmoves hm
  case isFalse hm => exact ⟨[], ((UnitBody.refl c _).unitActive.ends (hidle hm)).blockUnit_idle hm⟩

/-- A tick whose winner is in burst mode (R105). -/
theorem tick_burst {s : State} {c : ChannelIx} (hw : winner s = some c) (hm : ctrlSync s.ch[c].ctrl = .burst) :
    ∃ t moved, exec (.unitBurst c (ctrlDir s.ch[c].ctrl)) s = .next t ∧ exec .tick s = .next t ∧
      BlockUnit c (ctrlDir s.ch[c].ctrl) s t (bcrSize s.ch[c].bcr ≠ 0 ∧ bcrCount s.ch[c].bcr ≠ 0)
        (bcrSize s.ch[c].bcr * (bcrCount s.ch[c].bcr - 1) = 0) moved := by
  have hrow := exec_row_and_tick (t := unitBurst c (ctrlDir s.ch[c].ctrl) (s.answerWith none)) hw
    (by rw [decodeUnit, hm]) (by rw [runUnit, State.answerWith_ch, hm])
  have hcount := bcrCount_lt s.ch[c].bcr
  have hunit := completeIf_blockUnit (c := c) (dir := ctrlDir s.ch[c].ctrl) (s := s)
    (test := fun bcr => decide (bcrSize bcr * bcrCount bcr = 0))
    (moves := bcrSize s.ch[c].bcr ≠ 0 ∧ bcrCount s.ch[c].bcr ≠ 0)
    (done := bcrSize s.ch[c].bcr * (bcrCount s.ch[c].bcr - 1) = 0)
    (fun _ => by rw [decide_eq_true_eq, bcrSize_bcrWithCount, bcrCount_bcrWithCount _ _ (by omega)])
    (fun hidle => by
      rw [decide_eq_true_eq, Nat.mul_eq_zero, Nat.mul_eq_zero]
      omega)
  obtain ⟨moved, hunit⟩ := hunit
  exact ⟨_, moved, hrow.1, hrow.2, hunit⟩

/-- A tick whose winner is in block mode (R106). -/
theorem tick_block {s : State} {c : ChannelIx} (hw : winner s = some c) (hm : ctrlSync s.ch[c].ctrl = .block) :
    ∃ t moved, exec (.unitBlock c (ctrlDir s.ch[c].ctrl)) s = .next t ∧ exec .tick s = .next t ∧
      BlockUnit c (ctrlDir s.ch[c].ctrl) s t (bcrCount s.ch[c].bcr ≠ 0) (bcrCount s.ch[c].bcr ≤ 1) moved := by
  have hrow := exec_row_and_tick (t := unitBlock c (ctrlDir s.ch[c].ctrl) (s.answerWith none)) hw
    (by rw [decodeUnit, hm]) (by rw [runUnit, State.answerWith_ch, hm])
  have hcount := bcrCount_lt s.ch[c].bcr
  have hunit := completeIf_blockUnit (c := c) (dir := ctrlDir s.ch[c].ctrl) (s := s)
    (test := fun bcr => decide (bcrCount bcr = 0))
    (moves := bcrCount s.ch[c].bcr ≠ 0) (done := bcrCount s.ch[c].bcr ≤ 1)
    (fun hmoves => by
      rw [decide_eq_true_eq, bcrCount_bcrWithCount _ _ (by omega)]
      omega)
    (fun hidle => by
      rw [decide_eq_true_eq]
      omega)
  obtain ⟨moved, hunit⟩ := hunit
  exact ⟨_, moved, hrow.1, hrow.2, hunit⟩

/-- The register with its count replaced, written by its two fields (R58). -/
theorem bcrWithCount_eq (bcr : Word) (count : Nat) :
    bcrWithCount bcr count = BitVec.ofNat 16 count ++ BitVec.ofNat 16 (bcrSize bcr) := by
  rw [bcrWithCount, bcrSize, BitVec.ofNat_toNat, BitVec.setWidth_eq]

/-- Settles O22: the tick of burst mode with the mode, size and count read from their fields. -/
theorem burstUnitMovesOneBlock : Obligations.BurstUnitMovesOneBlock := by
  rintro s c _ _ _ hw hm rfl rfl rfl
  obtain ⟨t, moved, hrow, htick, h⟩ := tick_burst hw ((ctrlSync_eq_iff _ .burst).mpr hm)
  exact ⟨t, moved, hrow, htick, h.answer, h.frame, fun hmoves => bcrWithCount_eq _ _ ▸ h.block hmoves,
    fun hidle => h.nothing fun ⟨hsize, hcount⟩ => hidle.elim hsize hcount, h.completes, h.staysActive⟩

/-- Settles O23: the tick of block mode with the mode, size and count read from their fields. -/
theorem blockUnitMovesOneBlock : Obligations.BlockUnitMovesOneBlock := by
  rintro s c _ _ _ hw hm rfl rfl rfl
  obtain ⟨t, moved, hrow, htick, h⟩ := tick_block hw ((ctrlSync_eq_iff _ .block).mpr hm)
  exact ⟨t, moved, hrow, htick, h.answer, h.frame, fun hmoves => bcrWithCount_eq _ _ ▸ h.block hmoves,
    fun hidle => h.nothing (not_not.mpr hidle), h.completes, fun hd => h.staysActive (Nat.not_le.mpr hd)⟩

/-! ## The tag read (R62, R109) -/

/-- Byte `i` of a word put together from four, the first in the low bits. -/
theorem extractLsb'_append_bytes (x : Nat → Byte) {i : Nat} (hi : i < 4) :
    (x 3 ++ x 2 ++ x 1 ++ x 0 : Word).extractLsb' (8 * i) 8 = x i := by
  match i, hi with
  | 0, _ => exact BitVec.extractLsb'_append_eq_right
  | 1, _ => exact (BitVec.extractLsb'_append_eq_of_le (by decide)).trans BitVec.extractLsb'_append_eq_right
  | 2, _ =>
    exact (BitVec.extractLsb'_append_eq_of_le (by decide)).trans
      ((BitVec.extractLsb'_append_eq_of_le (by decide)).trans BitVec.extractLsb'_append_eq_right)
  | 3, _ =>
    exact (BitVec.extractLsb'_append_eq_of_le (by decide)).trans
      ((BitVec.extractLsb'_append_eq_of_le (by decide)).trans BitVec.extractLsb'_append_eq_left)

/-- Two words with the same four bytes are the same. -/
theorem word_eq_of_bytes {x y : Word} (h : ∀ i, i < 4 → x.extractLsb' (8 * i) 8 = y.extractLsb' (8 * i) 8) : x = y := by
  apply BitVec.eq_of_getLsbD_eq
  intro k hk
  have hbyte := congrArg (·.getLsbD (k % 8)) (h (k / 8) (by omega))
  have hplace : 8 * (k / 8) + k % 8 = k := by omega
  have hlt : k % 8 < 8 := by omega
  simpa [BitVec.getLsbD_extractLsb', hplace, hlt] using hbyte

/-- What a read of the byte at `a +32 i` answers, with `d i` draws taken before it. -/
def readAfter (a : Word) (s : State) (d : Nat → Nat) (i : Nat) : Byte :=
  (busReadByte (transferAddress a i) { s with draws := d i }).1

/-- A byte in RAM or CRAM is read the same whatever draws have been taken. -/
theorem readAfter_bank {a : Word} {s : State} {b : Bank} (d : Nat → Nat) {i : Nat}
    (hr : region s.cfg (transferAddress a i) 1 = b.region) :
    readAfter a s d i = s.byteAt b (bankOffset s.cfg b (transferAddress a i)) := by
  rw [readAfter, busReadByte_bank (s := { s with draws := d i }) hr]
  cases b <;> rfl

/-- The tag word is four bytes read, each after some draws (R109). -/
theorem dmaRead32_word (a : Word) (s : State) : ∃ d : Nat → Nat,
    (dmaRead32 a s).1 = readAfter a s d 3 ++ readAfter a s d 2 ++ readAfter a s d 1 ++ readAfter a s d 0 := by
  obtain ⟨d1, -, -, h1⟩ := busReadByte_state a s
  obtain ⟨d2, -, -, h2⟩ := busReadByte_state (a + 1#32) { s with draws := d1 }
  obtain ⟨d3, -, -, h3⟩ := busReadByte_state (a + 2#32) { s with draws := d2 }
  refine ⟨fun i => [s.draws, d1, d2, d3].getD i 0, ?_⟩
  simp only [dmaRead32, readAfter, transferAddress_zero]
  rw [h1, h2, h3]
  rfl

/-- Each byte of the tag word whose address is in RAM or CRAM is the byte of memory there (R107, R109). -/
theorem dmaRead32_byte (a : Word) (s : State) {b : Bank} {i : Nat} (hi : i < 4)
    (hr : region s.cfg (transferAddress a i) 1 = b.region) :
    (dmaRead32 a s).1.extractLsb' (8 * i) 8 = s.byteAt b (bankOffset s.cfg b (transferAddress a i)) := by
  obtain ⟨d, hword⟩ := dmaRead32_word a s
  rw [hword, extractLsb'_append_bytes (readAfter a s d) hi, readAfter_bank d hr]

/-- A tag in RAM and CRAM takes no draw. -/
theorem dmaRead32_state_of_banks {a : Word} {s : State} {bank : Nat → Bank}
    (hr : ∀ i, i < 4 → region s.cfg (transferAddress a i) 1 = (bank i).region) : (dmaRead32 a s).2 = s := by
  have hread : ∀ i, i < 4 → (busReadByte (transferAddress a i) s).2 = s := fun i hi => by rw [busReadByte_bank (hr i hi)]
  have h0 := hread 0 (by omega)
  rw [transferAddress_zero] at h0
  calc (dmaRead32 a s).2
      = (busReadByte (transferAddress a 3) (busReadByte (transferAddress a 2)
          (busReadByte (transferAddress a 1) (busReadByte a s).2).2).2).2 := rfl
    _ = s := by rw [h0, hread 1 (by omega), hread 2 (by omega), hread 3 (by omega)]

/-! ## Linked-list mode (R107) -/

/-- What a list node of tag `tag` leaves in `t`, its tag read with `d` draws taken at the end of it: the payload moved, `addr`
linked, and the channel completed where the next-pointer is the terminator. -/
structure ListNode (c : ChannelIx) (dir : Direction) (s t : State) (tag : Word) (d : Nat) (moved : List Event) : Prop where
  frame : EngineFrame s t c
  answer : t.answer = none
  payload : MovedBytes { s with draws := d } t c (s.ch[c].addr + 4#32) (payloadBytes (tagLen tag)) dir moved
  addr : t.ch[c].addr = nextAddress (tagNext tag)
  bcr : t.ch[c].bcr = s.ch[c].bcr
  completes : tagNext tag = terminator → Completes s t c ∧ t.events = completionEvents s c ++ moved.reverse ++ s.events
  staysActive : tagNext tag ≠ terminator → StaysActive s t c ∧ t.events = moved.reverse ++ s.events

/-- The link of a node, after the transfer of its payload, is a unit that has not completed. -/
theorem UnitActive.link {c : ChannelIx} {s x : State} {d n : Nat} {a next : Word} {dir : Direction} (hd : s.draws ≤ d)
    (hx : x = xfer c a n dir { s.answerWith none with draws := d }) : UnitActive c s (x.setAddr c next) where
  frame := by
    have hdraws := (xfer_eq c a n dir { s.answerWith none with draws := d }).2
    rw [← hx] at hdraws
    refine ⟨fun c' hc => ?_, ?_, ?_, ?_, ?_, ?_, ?_, ?_, Nat.le_trans hd hdraws⟩
    · rw [State.setAddr_ch, PerChannel.get_set_other _ _ hc, hx, xfer_ch]
      rfl
    all_goals simp [hx]
  active := by
    refine ⟨?_, ?_, ?_⟩
    · rw [State.setAddr_ch, PerChannel.get_set_self, hx, xfer_ch]
      rfl
    all_goals simp [hx]
  answer := by rw [State.setAddr_answer, hx, xfer_answer]; rfl

/-- A payload is short enough to be one transfer (R113). -/
theorem payloadBytes_le (len : Byte) : payloadBytes len ≤ 2 ^ 32 := by
  have := len.isLt
  unfold payloadBytes
  omega

/-- A list node, from the state its tag read leaves. -/
theorem listNode_spec (c : ChannelIx) (dir : Direction) (tag : Word) {s s' : State} {d : Nat} (hd : s.draws ≤ d)
    (hs' : s' = { s.answerWith none with draws := d }) :
    ∃ moved, ListNode c dir s (listNode c dir s.ch[c].addr tag s') tag d moved := by
  subst hs'
  obtain ⟨moved, hmoved, hev⟩ :=
    xfer_moves (payloadBytes_le (tagLen tag)) { s.answerWith none with draws := d } c (s.ch[c].addr + 4#32) dir
  unfold listNode
  generalize hx : xfer c (s.ch[c].addr + 4#32) (payloadBytes (tagLen tag)) dir _ = x at hmoved hev ⊢
  have hends := (UnitActive.link (next := nextAddress (tagNext tag)) hd hx.symm).ends
    (Iff.refl (tagNext tag = terminator))
  have hch : x.ch = s.ch := by
    rw [← hx, xfer_ch]
    rfl
  refine ⟨moved, hends.frame, hends.answer, ?payload, ?addr, ?bcr, fun hdone => ?completes, fun hdone => ?active⟩
  case payload =>
    have hlinked := hends.moved (hmoved.congr rfl rfl rfl (fun _ _ => rfl) rfl (x.setAddr_byteAt c _))
    exact hlinked.congr (s' := { s with draws := d }) rfl rfl rfl (fun b o => by cases b <;> rfl) rfl (fun _ _ => rfl)
  case addr => rw [hends.addr, State.setAddr_ch, PerChannel.get_set_self]
  case bcr => rw [hends.bcr, State.setAddr_ch, PerChannel.get_set_self, hch]
  case completes =>
    obtain ⟨hc, he⟩ := hends.completes hdone
    exact ⟨hc, by rw [he, State.setAddr_events, hev, List.append_assoc]; rfl⟩
  case active =>
    obtain ⟨ha, he⟩ := hends.staysActive hdone
    exact ⟨ha, by rw [he, State.setAddr_events, hev]; rfl⟩

/-- The row and the tick of a winner in linked-list mode (R104, R107). -/
theorem exec_unitList_and_tick {s : State} {c : ChannelIx} (hw : winner s = some c)
    (hm : ctrlSync s.ch[c].ctrl = .list) :
    exec (.unitList c (ctrlDir s.ch[c].ctrl)) s = .next (unitList c (ctrlDir s.ch[c].ctrl) (s.answerWith none)) ∧
      exec .tick s = .next (unitList c (ctrlDir s.ch[c].ctrl) (s.answerWith none)) :=
  exec_row_and_tick hw (by rw [decodeUnit, hm]) (by rw [runUnit, State.answerWith_ch, hm])

/-- The unit of linked-list mode is the node of the tag that it reads (R107). -/
theorem unitList_eq (c : ChannelIx) (dir : Direction) (s : State) : unitList c dir s =
    listNode c dir s.ch[c].addr (dmaRead32 s.ch[c].addr s).1 (dmaRead32 s.ch[c].addr s).2 := rfl

/-- `zext_32(next)` as a byte 0 above the next-pointer (R55). -/
theorem nextAddress_eq (next : BitVec 24) : nextAddress next = 0#8 ++ next := BitVec.setWidth_eq_append (by decide)

/-- Settles O24: the tick's node is that of the tag word it reads. -/
theorem listUnitMovesOneNode : Obligations.ListUnitMovesOneNode := by
  rintro s c _ hw hm rfl
  obtain ⟨hrow, htick⟩ := exec_unitList_and_tick hw ((ctrlSync_eq_iff _ .list).mpr hm)
  obtain ⟨d, hlow, hhigh, hread⟩ := dmaRead32_state s.ch[c].addr (s.answerWith none)
  rw [unitList_eq, State.answerWith_ch] at hrow htick
  obtain ⟨moved, h⟩ := listNode_spec c (ctrlDir s.ch[c].ctrl) (dmaRead32 s.ch[c].addr (s.answerWith none)).1 hlow hread
  refine ⟨_, (dmaRead32 s.ch[c].addr (s.answerWith none)).1, d, moved, hrow, htick, h.answer, hlow, hhigh,
    fun b i hi hr => ?tag, h.frame, h.payload, ?addr, h.bcr, h.completes, h.staysActive⟩
  case tag => exact (dmaRead32_byte _ (s.answerWith none) hi hr).trans (s.answerWith_byteAt none b _)
  case addr => exact h.addr.trans (nextAddress_eq _)

/-! ## The TAG rows (R62, log entry 11) -/

/-- A tag row that is the tag the tick reads runs the tick's node. -/
theorem runTag_eq {s s' : State} {c : ChannelIx} {tag : Word} (hw : winner s = some c)
    (hm : ctrlSync s.ch[c].ctrl = .list) (hread : dmaRead32 s.ch[c].addr (s.answerWith none) = (tag, s')) :
    runTag c tag s = .next (listNode c (ctrlDir s.ch[c].ctrl) s.ch[c].addr tag s') := by
  rw [runTag, if_pos (selects_iff.mpr ⟨hw, hm, rfl⟩), hread]
  exact if_pos rfl

/-- TAG.LINK runs its node: a terminator is no link (R62, log entry 10). -/
theorem exec_tagLink {c : ChannelIx} {len : Byte} {next : BitVec 24} {s : State} (h : next ≠ terminator) :
    exec (.tagLink c len next) s = runTag c (tagWord len next) s := if_neg h

/-- Settles O25: the four bytes fix the tag that the tick reads, which takes no draw, and the row is refused for no other. -/
theorem tagRowsAreTheTicksNode : Obligations.TagRowsAreTheTicksNode := by
  intro s c len next bank hw hm hr hbytes
  have hlist := (ctrlSync_eq_iff _ .list).mpr hm
  have htag : (dmaRead32 s.ch[c].addr (s.answerWith none)).1 = tagWord len next := word_eq_of_bytes fun i hi => by
    exact ((dmaRead32_byte _ (s.answerWith none) hi (hr i hi)).trans (s.answerWith_byteAt none _ _)).trans (hbytes i hi)
  have hread : dmaRead32 s.ch[c].addr (s.answerWith none) = (tagWord len next, s.answerWith none) :=
    Prod.ext htag (dmaRead32_state_of_banks hr)
  obtain ⟨-, htick⟩ := exec_unitList_and_tick hw hlist
  rw [unitList_eq, State.answerWith_ch, hread] at htick
  have hrow := runTag_eq hw hlist hread
  obtain ⟨moved, h⟩ := listNode_spec (s' := s.answerWith none) c (ctrlDir s.ch[c].ctrl) (tagWord len next)
    (Nat.le_refl s.draws) rfl
  obtain ⟨hframe, hans, hpayload, haddr, hbcr, hcompletes, hactive⟩ := h
  rw [tagNext_tagWord] at haddr hcompletes hactive
  rw [tagLen_tagWord] at hpayload
  refine ⟨_, moved, htick, hans, hframe, hpayload, hbcr, ?last, fun hne => ⟨?link, ?_, hactive hne⟩⟩
  case last =>
    rintro rfl
    exact ⟨hrow, haddr, hcompletes rfl⟩
  case link => exact (exec_tagLink hne).trans hrow
  · exact haddr.trans (nextAddress_eq next)

/-! ## One tick (R112, R115, R145) -/

/-- What a tick that goes on has done: nothing, with no channel eligible, or its winner's unit, completed or not. -/
theorem tick_cases {s t : State} (h : exec .tick s = .next t) : (winner s = none ∧ t = s.answerWith none) ∨
    ∃ c u, winner s = some c ∧ UnitBody c (s.answerWith none) u ∧ (t = u ∨ t = complete c u) := by
  cases hw : winner s with
  | none =>
    rw [exec_tick_idle hw] at h
    cases h
    exact .inl ⟨rfl, rfl⟩
  | some c =>
    rw [exec_tick_winner hw, runUnit] at h
    refine .inr ⟨c, ?_⟩
    split at h <;> cases h
    · obtain ⟨u, hu, ht⟩ := unitBurst_body c _ (s.answerWith none)
      exact ⟨u, rfl, hu, ht⟩
    · obtain ⟨u, hu, ht⟩ := unitBlock_body c _ (s.answerWith none)
      exact ⟨u, rfl, hu, ht⟩
    · obtain ⟨u, hu, ht⟩ := unitList_body c _ (s.answerWith none)
      exact ⟨u, rfl, hu, ht⟩

/-- A tick changes the registers and the flag of its winner only (R112, R115). -/
theorem tick_loser {s t : State} (h : exec .tick s = .next t) {c : ChannelIx} (hc : winner s ≠ some c) :
    t.ch[c] = s.ch[c] ∧ t.iflag[c] = s.iflag[c] := by
  rcases tick_cases h with ⟨-, rfl⟩ | ⟨w, u, hw, hu, ht⟩
  · exact ⟨rfl, rfl⟩
  · have hne : c ≠ w := by
      rintro rfl
      exact hc hw
    obtain ⟨⟨hothers, -⟩, ⟨-, hiflag, -⟩, -⟩ := hu.unitActive
    rcases ht with rfl | rfl
    · exact ⟨hothers c hne, by rw [hiflag]⟩
    · rw [complete_ch, complete_iflag, PerChannel.get_set_other _ _ hne, PerChannel.get_set_other _ _ hne, hiflag]
      exact ⟨hothers c hne, rfl⟩

/-- Of what a completion records at most one entry is a signal (R111, R117). -/
theorem completionEvents_signals (s : State) (c : ChannelIx) :
    ((completionEvents s c).filter (· = Event.intSignal)).length ≤ 1 := by
  unfold completionEvents
  split
  · unfold irqRecord
    split <;> simp
  · simp

/-- A tick's events hold at most one signal (R112). -/
theorem tick_signals {s t : State} (h : exec .tick s = .next t) : ∃ added : List Event, t.events = added ++ s.events ∧
    (added.filter (· = Event.intSignal)).length ≤ 1 := by
  rcases tick_cases h with ⟨-, rfl⟩ | ⟨c, u, -, hu, ht⟩
  · exact ⟨[], rfl, by simp⟩
  · obtain ⟨added, hev, hquiet, -⟩ := hu.announced
    have hnone : added.filter (· = Event.intSignal) = [] :=
      List.filter_eq_nil_iff.mpr fun e he => by simpa using (hquiet e he).1
    rcases ht with rfl | rfl
    · exact ⟨added, hev, by simp [hnone]⟩
    · refine ⟨completionEvents u c ++ added, by rw [complete_events, hev, List.append_assoc]; rfl, ?_⟩
      rw [List.filter_append, hnone, List.append_nil]
      exact completionEvents_signals u c

/-- Settles O27: what a tick changes of a channel is of its one winner. -/
theorem oneTickCompletesAtMostOneChannel : Obligations.OneTickCompletesAtMostOneChannel := by
  intro s t h
  have hone : ∀ c c' : ChannelIx, winner s = some c → winner s = some c' → c = c' := fun c c' hc hc' =>
    Option.some.inj (hc.symm.trans hc')
  have hflag : ∀ c : ChannelIx, t.iflag[c] ≠ s.iflag[c] → winner s = some c := fun c hne =>
    Decidable.byContradiction fun hc => hne (tick_loser h hc).2
  have hbusy : ∀ c : ChannelIx, ctrlBusy t.ch[c].ctrl ≠ ctrlBusy s.ch[c].ctrl → winner s = some c := fun c hne =>
    Decidable.byContradiction fun hc => hne (by rw [(tick_loser h hc).1])
  exact ⟨fun c c' hc hc' => hone c c' (hflag c hc) (hflag c' hc'),
    fun c c' hc hc' => hone c c' (hbusy c hc) (hbusy c' hc'), tick_signals h⟩

/-! ## The ports of the channels that lose (R110, R115) -/

theorem xfer_devInput_other {c c' : ChannelIx} (hc : c' ≠ c) {n : Nat} (hn : n ≤ 2 ^ 32) (a : Word) (dir : Direction)
    (s : State) : (xfer c a n dir s).devInput[c'] = s.devInput[c'] := by
  obtain ⟨moved, hmoved, -⟩ := xfer_moves hn s c a dir
  exact hmoved.devInput_other hc

theorem completeIf_devInput (test : Word → Bool) (c : ChannelIx) (s : State) :
    (completeIf test c s).devInput = s.devInput := by
  rcases completeIf_or test c s with h | h
  · rw [h]
  · rw [h, complete_devInput]

@[simp] theorem dmaRead32_devInput (a : Word) (s : State) : (dmaRead32 a s).2.devInput = s.devInput := by
  obtain ⟨d, -, -, h⟩ := dmaRead32_state a s
  rw [h]

theorem listNode_devInput (c : ChannelIx) (dir : Direction) (a tag : Word) (s : State) :
    (listNode c dir a tag s).devInput = (xfer c (a + 4#32) (payloadBytes (tagLen tag)) dir s).devInput := by
  unfold listNode
  split
  · rw [complete_devInput, State.setAddr_devInput]
  · rw [State.setAddr_devInput]

/-- A unit of work takes bytes from its own channel's port alone. -/
theorem runUnit_devInput_other {s t : State} {c c' : ChannelIx} (h : runUnit c s = .next t) (hc : c' ≠ c) :
    t.devInput[c'] = s.devInput[c'] := by
  have hblock : ∀ (moves : Prop) [Decidable moves] (dir : Direction),
      (if moves then moveBlock c dir s else s).devInput[c'] = s.devInput[c'] := by
    intro moves _ dir
    have hsize := bcrSize_lt s.ch[c].bcr
    split
    · exact xfer_devInput_other hc (by omega) s.ch[c].addr dir s
    · rfl
  rw [runUnit] at h
  split at h <;> cases h
  case h_1 => rw [unitBurst, completeIf_devInput, hblock]
  case h_2 => rw [unitBlock, completeIf_devInput, hblock]
  case h_3 => rw [unitList_eq, listNode_devInput, xfer_devInput_other hc (payloadBytes_le _), dmaRead32_devInput]

/-- A tick takes bytes from its winner's port alone (R110, R115). -/
theorem tick_loser_devInput {s t : State} (h : exec .tick s = .next t) {c : ChannelIx} (hc : winner s ≠ some c) :
    t.devInput[c] = s.devInput[c] := by
  cases hw : winner s with
  | none =>
    rw [exec_tick_idle hw] at h
    cases h
    rfl
  | some w =>
    rw [exec_tick_winner hw] at h
    exact runUnit_devInput_other (s := s.answerWith none) h fun he => hc (he ▸ hw)

/-- Settles O28: a tick leaves a channel that is not its winner, and a winner still Active leaves the arbiter its choice. -/
theorem losersWaitAndWinnerKeepsWinning : Obligations.LosersWaitAndWinnerKeepsWinning := by
  intro s t h
  refine ⟨fun c hc => ?_, fun c hw hbusy => ?_⟩
  · obtain ⟨hch, hflag⟩ := tick_loser h hc
    exact ⟨hch, hflag, tick_loser_devInput h hc⟩
  · rcases tick_cases h with ⟨hnone, -⟩ | ⟨w, u, hw', hu, ht⟩
    · cases hnone.symm.trans hw
    · cases hw'.symm.trans hw
      rcases ht with rfl | rfl
      · rw [winner_of_staysActive hu.unitActive.frame hu.unitActive.active, hw]
      · rw [complete_ch, PerChannel.get_set_self, ctrlBusy_clearBusy] at hbusy
        cases hbusy

/-! ## A run of ticks (R114) -/

theorem runTicks_succ {k : Nat} {s u : State} (h : runTicks k s = .next u) : runTicks (k + 1) s = exec .tick u := by
  induction k generalizing s with
  | zero =>
    cases h
    rw [runTicks]
    cases exec .tick u <;> rfl
  | succ k ih =>
    rw [runTicks] at h ⊢
    split at h
    · exact ih h
    · cases h
    · cases h

/-- The transfers of R114 that a count ends: burst mode with a size, block mode with any. -/
def CountedMode (ch : Channel) : Prop := (ctrlSync ch.ctrl = .burst ∧ bcrSize ch.bcr ≠ 0) ∨ ctrlSync ch.ctrl = .block

/-- A tick of a counted transfer moves a block if a block is left, and completes with the last (R105, R106). -/
theorem tick_counted {s : State} {c : ChannelIx} (hw : winner s = some c) (hm : CountedMode s.ch[c]) :
    ∃ t moved, exec .tick s = .next t ∧
      BlockUnit c (ctrlDir s.ch[c].ctrl) s t (bcrCount s.ch[c].bcr ≠ 0) (bcrCount s.ch[c].bcr ≤ 1) moved := by
  rcases hm with ⟨hm, hsize⟩ | hm
  · obtain ⟨t, moved, -, htick, h⟩ := tick_burst hw hm
    have hmoves : (bcrSize s.ch[c].bcr ≠ 0 ∧ bcrCount s.ch[c].bcr ≠ 0) = (bcrCount s.ch[c].bcr ≠ 0) :=
      propext (and_iff_right hsize)
    have hdone : (bcrSize s.ch[c].bcr * (bcrCount s.ch[c].bcr - 1) = 0) = (bcrCount s.ch[c].bcr ≤ 1) := by
      rw [Nat.mul_eq_zero, or_iff_right hsize, Nat.sub_eq_zero_iff_le]
    exact ⟨t, moved, htick, hdone ▸ hmoves ▸ h⟩
  · obtain ⟨t, moved, -, htick, h⟩ := tick_block hw hm
    exact ⟨t, moved, htick, h⟩

/-- Where the registers of a counted transfer stand after a tick. -/
theorem BlockUnit.registers {c : ChannelIx} {dir : Direction} {s t : State} {done : Prop} {moved : List Event}
    (h : BlockUnit c dir s t (bcrCount s.ch[c].bcr ≠ 0) done moved) :
    t.ch[c].addr = s.ch[c].addr + BitVec.ofNat 32 (bcrSize s.ch[c].bcr * min (bcrCount s.ch[c].bcr) 1) ∧
      bcrSize t.ch[c].bcr = bcrSize s.ch[c].bcr ∧ bcrCount t.ch[c].bcr = bcrCount s.ch[c].bcr - 1 := by
  by_cases hcount : bcrCount s.ch[c].bcr = 0
  · obtain ⟨-, -, -, -, -, haddr, hbcr⟩ := h.nothing (not_not.mpr hcount)
    rw [haddr, hbcr, hcount]
    simp
  · obtain ⟨-, haddr, hbcr⟩ := h.block hcount
    have hlt := bcrCount_lt s.ch[c].bcr
    rw [haddr, hbcr, bcrSize_bcrWithCount, bcrCount_bcrWithCount _ _ (by omega), Nat.min_eq_right (by omega), Nat.mul_one]
    exact ⟨rfl, rfl, rfl⟩

theorem EngineFrame.trans {c : ChannelIx} {s u t : State} (h₁ : EngineFrame s u c) (h₂ : EngineFrame u t c) :
    EngineFrame s t c := by
  obtain ⟨hothers, hprio, hen, hie, hmie, hcfg, hsched, hdraw, hdraws⟩ := h₁
  obtain ⟨hothers', hprio', hen', hie', hmie', hcfg', hsched', hdraw', hdraws'⟩ := h₂
  exact ⟨fun c' hc => (hothers' c' hc).trans (hothers c' hc), hprio'.trans hprio, hen'.trans hen, hie'.trans hie,
    hmie'.trans hmie, hcfg'.trans hcfg, hsched'.trans hsched, hdraw'.trans hdraw, Nat.le_trans hdraws hdraws'⟩

theorem StaysActive.trans {c : ChannelIx} {s u t : State} (h₁ : StaysActive s u c) (h₂ : StaysActive u t c) :
    StaysActive s t c := by
  obtain ⟨hctrl, hiflag, hpending⟩ := h₁
  obtain ⟨hctrl', hiflag', hpending'⟩ := h₂
  exact ⟨hctrl'.trans hctrl, hiflag'.trans hiflag, hpending'.trans hpending⟩

/-- A completion that comes after units without one is a completion since their start. -/
theorem StaysActive.completes {c : ChannelIx} {s u t : State} (ha : StaysActive s u c) (hf : EngineFrame s u c)
    (h : Completes u t c) : Completes s t c := by
  obtain ⟨hctrl, hiflag, hpending⟩ := ha
  obtain ⟨-, -, -, hie, hmie, -⟩ := hf
  rwa [Completes, hctrl, hiflag, hpending, hie, hmie] at h

/-- After `k` ticks a counted transfer is still Active and the winner, `k` blocks on. -/
structure CountedProgress (c : ChannelIx) (s u : State) (k : Nat) : Prop where
  won : winner u = some c
  frame : EngineFrame s u c
  active : StaysActive s u c
  addr : u.ch[c].addr = s.ch[c].addr + BitVec.ofNat 32 (bcrSize s.ch[c].bcr * k)
  size : bcrSize u.ch[c].bcr = bcrSize s.ch[c].bcr
  count : bcrCount u.ch[c].bcr = bcrCount s.ch[c].bcr - k

theorem CountedProgress.start {c : ChannelIx} {s : State} (hw : winner s = some c) : CountedProgress c s s 0 where
  won := hw
  frame := ⟨fun _ _ => rfl, rfl, rfl, rfl, rfl, rfl, rfl, rfl, Nat.le_refl _⟩
  active := ⟨rfl, rfl, rfl⟩
  addr := by simp
  size := rfl
  count := rfl

/-- The next tick of a counted transfer, told from its start. -/
theorem CountedProgress.tick {c : ChannelIx} {s u : State} {k : Nat} (h : CountedProgress c s u k)
    (hm : CountedMode s.ch[c]) : ∃ t, exec .tick u = .next t ∧ EngineFrame s t c ∧
      t.ch[c].addr = s.ch[c].addr + BitVec.ofNat 32 (bcrSize s.ch[c].bcr * (k + min (bcrCount s.ch[c].bcr - k) 1)) ∧
      bcrSize t.ch[c].bcr = bcrSize s.ch[c].bcr ∧ bcrCount t.ch[c].bcr = bcrCount s.ch[c].bcr - (k + 1) ∧
      (bcrCount s.ch[c].bcr - k ≤ 1 → Completes s t c) ∧ (1 < bcrCount s.ch[c].bcr - k → StaysActive s t c) := by
  have hmode : CountedMode u.ch[c] := by rwa [CountedMode, h.active.ctrl, h.size]
  obtain ⟨t, moved, htick, hunit⟩ := tick_counted h.won hmode
  obtain ⟨haddr, hsize, hcount⟩ := hunit.registers
  rw [h.addr, h.size, h.count, BitVec.add_assoc, ← BitVec.ofNat_add, ← Nat.mul_add] at haddr
  refine ⟨t, htick, h.frame.trans hunit.frame, haddr, hsize.trans h.size, ?_, fun hlast => ?_, fun hmore => ?_⟩
  · rw [hcount, h.count, Nat.sub_sub]
  · exact h.active.completes h.frame (hunit.completes (h.count ▸ hlast)).1
  · exact h.active.trans (hunit.staysActive (Nat.not_le.mpr (h.count ▸ hmore))).1

/-- Before its last tick a counted transfer is still Active and the winner (R114). -/
theorem runTicks_counted {c : ChannelIx} {s : State} (hw : winner s = some c) (hm : CountedMode s.ch[c]) {k : Nat}
    (hk : k < max (bcrCount s.ch[c].bcr) 1) : ∃ u, runTicks k s = .next u ∧ CountedProgress c s u k := by
  induction k with
  | zero => exact ⟨s, rfl, .start hw⟩
  | succ k ih =>
    obtain ⟨u, hrun, hprogress⟩ := ih (by omega)
    obtain ⟨t, htick, hframe, haddr, hsize, hcount, -, hactive⟩ := hprogress.tick hm
    have hstays := hactive (by omega)
    rw [Nat.min_eq_right (by omega)] at haddr
    exact ⟨t, (runTicks_succ hrun).trans htick, (winner_of_staysActive hframe hstays).trans hw, hframe, hstays, haddr,
      hsize, hcount⟩

/-- The last tick of a counted transfer completes it (R114). -/
theorem runTicks_counted_last {c : ChannelIx} {s : State} (hw : winner s = some c) (hm : CountedMode s.ch[c]) :
    ∃ t, runTicks (max (bcrCount s.ch[c].bcr) 1) s = .next t ∧ Completes s t c ∧
      t.ch[c].addr = s.ch[c].addr + BitVec.ofNat 32 (bcrSize s.ch[c].bcr * bcrCount s.ch[c].bcr) ∧
      bcrCount t.ch[c].bcr = 0 ∧ bcrSize t.ch[c].bcr = bcrSize s.ch[c].bcr := by
  obtain ⟨k, hk⟩ : ∃ k, max (bcrCount s.ch[c].bcr) 1 = k + 1 := ⟨max (bcrCount s.ch[c].bcr) 1 - 1, by omega⟩
  obtain ⟨u, hrun, hprogress⟩ := runTicks_counted hw hm (k := k) (by omega)
  obtain ⟨t, htick, -, haddr, hsize, hcount, hcompletes, -⟩ := hprogress.tick hm
  rw [show k + min (bcrCount s.ch[c].bcr - k) 1 = bcrCount s.ch[c].bcr by omega] at haddr
  rw [hk]
  exact ⟨t, (runTicks_succ hrun).trans htick, hcompletes (by omega), haddr, hcount.trans (by omega), hsize⟩

/-- Settles O29: a counted transfer's run of ticks, and the one tick of a burst transfer without size. -/
theorem transferCompletesInCountTicks : Obligations.TransferCompletesInCountTicks := by
  rintro s c _ _ hw rfl rfl
  refine ⟨fun hm => ⟨?last, fun k hk => ?before⟩, fun ⟨hm, hsize⟩ => ?empty⟩
  case last =>
    obtain ⟨t, hrun, hc, haddr, hcount, hsize⟩ := runTicks_counted_last hw hm
    exact ⟨t, hrun, hc.idle, hc.flagged, haddr, hcount, hsize, hc.sink⟩
  case before =>
    obtain ⟨u, hrun, h⟩ := runTicks_counted hw hm hk
    obtain ⟨-, hiflag, hpending⟩ := h.active
    exact ⟨u, hrun, h.won, winner_busy h.won, hiflag, hpending, h.addr, h.count⟩
  case empty =>
    obtain ⟨t, moved, -, htick, h⟩ := tick_burst hw hm
    obtain ⟨-, hram, hcram, -, -, haddr, hbcr⟩ := h.nothing fun ⟨hmoves, _⟩ => hmoves hsize
    obtain ⟨hc, -⟩ := h.completes (by rw [hsize, Nat.zero_mul])
    exact ⟨t, (runTicks_succ rfl).trans htick, hc.idle, hc.flagged, haddr, hbcr, hram, hcram, hc.sink⟩

end Sys2Proof.Machine
end

section
/-! The family of spec/43_interrupt_sink.md: INTACK, and that the sink is outside the address space. That no bus access depends
on the sink is proved once for each shared operation of the rows, and carried to the rows by `exec_with_pending`. -/

namespace Sys2Proof.Machine

/-! ## INTACK (R118) -/

/-- The record of the level that an acknowledge leaves: a fall, if the level was high (R23, log entry 15). -/
theorem irqRecord_low (before : Bool) : irqRecord before false = if before = true then [.irqOut false] else [] := by
  cases before <;> rfl

/-- Settles O31: INTACK is the one write of the sink, whose record is the fall of the level. -/
theorem intackClearsOnlyTheSink : Obligations.IntackClearsOnlyTheSink := by
  intro s
  rw [← irqRecord_low]
  rfl

/-! ## Memory with another value of the sink -/

theorem State.byteAt_with_pending (s : State) (p : Bool) (b : Bank) (o : Nat) :
    State.byteAt { s with pending := p } b o = s.byteAt b o := by
  cases b <;> rfl

theorem State.readBytes_with_pending (s : State) (p : Bool) (b : Bank) (o n : Nat) :
    State.readBytes { s with pending := p } b o n = s.readBytes b o n := by
  induction n generalizing o with
  | zero => rfl
  | succ n ih => rw [State.readBytes, State.readBytes, State.byteAt_with_pending, ih]

theorem State.storeBytes_with_pending (s : State) (p : Bool) (b : Bank) (o : Nat) (xs : List Byte) :
    State.storeBytes { s with pending := p } b o xs = { s.storeBytes b o xs with pending := p } := by
  induction xs generalizing s o with
  | nil => rfl
  | cons x xs ih =>
    have hset : State.setBank { s with pending := p } b ((State.bank { s with pending := p } b).write o x) =
        { s.setBank b ((s.bank b).write o x) with pending := p } := by cases b <;> rfl
    rw [State.storeBytes, hset, ih, State.storeBytes]

/-! ## The shared operations of the rows with another value of the sink (R120) -/

section
variable {s t : State} (p : Bool)

theorem readBank_with_pending {b : Bank} {w : Width} {a : Word} (h : readBank b w a s = .next t) :
    readBank b w a { s with pending := p } = .next { t with pending := p } := by
  unfold readBank at h
  split at h
  · rename_i hr
    cases h
    rw [readBank_inside (s := { s with pending := p }) hr, State.readBytes_with_pending]
    rfl
  · cases h

theorem writeBank_with_pending {b : Bank} {a : Word} {d : BusData} (h : writeBank b a d s = .next t) :
    writeBank b a d { s with pending := p } = .next { t with pending := p } := by
  unfold writeBank at h
  split at h
  · rename_i hr
    cases h
    rw [writeBank_inside (s := { s with pending := p }) hr, State.storeBytes_with_pending]
    rfl
  · cases h

theorem readDraw_with_pending {isRow : Bool} {st : Status} {w : Width} (h : readDraw isRow st w s = .next t) :
    readDraw isRow st w { s with pending := p } = .next { t with pending := p } := by
  cases isRow <;> cases h
  rfl

theorem writeDiscard_with_pending {isRow : Bool} {st : Status} (h : writeDiscard isRow st s = .next t) :
    writeDiscard isRow st { s with pending := p } = .next { t with pending := p } := by
  cases isRow <;> cases h
  rfl

theorem writeDevice_with_pending {a : Word} {d : BusData} (h : writeDevice a d s = .next t) :
    writeDevice a d { s with pending := p } = .next { t with pending := p } := by
  unfold writeDevice at h
  split at h
  · rename_i hr
    cases h
    exact if_pos hr
  · cases h

/-- A bus access with any other value of the sink answers the same and leaves the same state but for it (R120). -/
theorem exec_with_pending {i : Instr} (hi : i.format = .bus) (h : exec i s = .next t) :
    exec i { s with pending := p } = .next { t with pending := p } := by
  cases i with
  | rd8Ram a | rd16Ram a | rd32Ram a | rd64Ram a | rd8Cram a | rd16Cram a | rd32Cram a | rd64Cram a =>
    exact readBank_with_pending p h
  | wr8Ram a v | wr16Ram a v | wr32Ram a v | wr64Ram a v | wr8Cram a v | wr16Cram a v | wr32Cram a v | wr64Cram a v =>
    exact writeBank_with_pending p h
  | rd8Dev a | rd16Dev a | rd32Dev a | rd64Dev a | rd8Unmapped a | rd16Unmapped a | rd32Unmapped a | rd64Unmapped a
  | rd8DmaBadaccess a | rd16DmaBadaccess a | rd32DmaBadaccess a | rd64DmaBadaccess a | rd32DmaReservedHigh a =>
    exact readDraw_with_pending p h
  | rd32DmaReservedSlot c => exact readDraw_with_pending (isRow := true) (st := .reject) (w := .w32) p h
  | wr8Unmapped a v | wr16Unmapped a v | wr32Unmapped a v | wr64Unmapped a v | wr8DmaBadaccess a v
  | wr16DmaBadaccess a v | wr32DmaBadaccess a v | wr64DmaBadaccess a v | wr32DmaReservedHigh a v =>
    exact writeDiscard_with_pending p h
  | wr32DmaReservedSlot c v => exact writeDiscard_with_pending (isRow := true) (st := .reject) p h
  | wr8Dev a v | wr16Dev a v | wr32Dev a v | wr64Dev a v => exact writeDevice_with_pending p h
  | rd32ChAddr c | rd32ChBcr c | rd32ChCtrl c | rd32Dpcr | rd32Dpcr2 | rd32Dicr | rd32Dicr2 =>
    cases h
    rfl
  | wr32ChAddr c v | wr32ChBcr c v | wr32ChCtrl c v | wr32Dpcr v | wr32Dpcr2 v | wr32Dicr v | wr32Dicr2 v =>
    cases h
    rfl
  | tick | reset | intack | unitBurst c dir | unitBlock c dir | unitList c dir | unitReserved c dir | tagLast c len
  | tagLink c len next => cases hi

/-- No bus access changes the sink: with the value it has, the state left is the same with that value (R120). -/
theorem exec_keeps_pending {i : Instr} (hi : i.format = .bus) (h : exec i s = .next t) : t.pending = s.pending := by
  have ht : t = { t with pending := s.pending } := Host.Outcome.next.inj (h.symm.trans (exec_with_pending s.pending hi h))
  rw [ht]

end

/-! ## What changes the sink (R117, R118, R120) -/

/-- What an operation does to the sink: it keeps it, acknowledges it, resets it or completes a channel. -/
theorem Effect.pending_cases {s t : State} {i : Instr} (h : Effect s i t) :
    t.pending = s.pending ∨ i = .intack ∨ i = .reset ∨ ∃ c, CompletedBy s i t c := by
  cases h with
  | acknowledged hi => exact .inr (.inl hi)
  | wasReset hi => exact .inr (.inr (.inl hi))
  | worked c u hw hi hu => exact .inl hu.pending
  | completed c u hw hi hu =>
    obtain ⟨hc, -⟩ := (hu.unitActive.ends_complete trivial).completes trivial
    exact .inr (.inr (.inr ⟨c, hw, hi, hc.idle, hc.flagged⟩))
  | _ => exact .inl (by simp)

/-- Settles O42: each row's shared operation carries any value of the sink through, and of what an operation can do to the sink
only an acknowledge, a reset and a completion change it. -/
theorem sinkIsOutsideTheAddressSpace : Obligations.SinkIsOutsideTheAddressSpace := by
  refine ⟨fun s t i p h hi => ⟨exec_keeps_pending hi h, exec_with_pending p hi h⟩, fun s t i h hne => ?_⟩
  rcases (exec_effect h).pending_cases with hk | hi | hi | ⟨c, hc⟩
  · exact absurd hk hne
  · exact .inl hi
  · exact .inr (.inl hi)
  · exact .inr (.inr ⟨hc.byTick, c, hc.won, hc.flagged, hc.idle⟩)

end Sys2Proof.Machine
end

section
/-! The family of spec/60_exceptions.md: that every operation of the environment completes, what status an access answers, and
what raises a signal. That the shared operations of the rows complete and what they answer is said once of each; a step raises
a signal or nothing by the effects of Laws/Exec.lean. -/

namespace Sys2Proof.Machine

/-! ## Every operation completes (R123) -/

theorem readBank_completes {s : State} {b : Bank} {w : Width} {a : Word}
    (h : decide (region s.cfg a w.bytes = b.region) = true) : ∃ t, readBank b w a s = .next t :=
  ⟨_, readBank_inside (of_decide_eq_true h)⟩

theorem writeBank_completes {s : State} {b : Bank} {a : Word} {d : BusData}
    (h : decide (region s.cfg a d.width.bytes = b.region) = true) : ∃ t, writeBank b a d s = .next t :=
  ⟨_, writeBank_inside (of_decide_eq_true h)⟩

theorem readDraw_completes {s : State} {isRow : Bool} {st : Status} {w : Width} (h : isRow = true) :
    ∃ t, readDraw isRow st w s = .next t := ⟨_, if_pos h⟩

theorem writeDiscard_completes {s : State} {isRow : Bool} {st : Status} (h : isRow = true) :
    ∃ t, writeDiscard isRow st s = .next t := ⟨_, if_pos h⟩

theorem writeDevice_completes {s : State} {a : Word} {d : BusData}
    (h : decide (region s.cfg a d.width.bytes = .dev) = true) : ∃ t, writeDevice a d s = .next t :=
  ⟨_, if_pos (of_decide_eq_true h)⟩

/-- A bus access with operands of its row completes in every state. -/
theorem exec_bus_completes {s : State} {i : Instr} (hi : i.format = .bus) (h : WellFormed s.cfg i = true) :
    ∃ t, exec i s = .next t := by
  cases i with
  | rd8Ram a | rd16Ram a | rd32Ram a | rd64Ram a => exact readBank_completes (b := .ram) h
  | rd8Cram a | rd16Cram a | rd32Cram a | rd64Cram a => exact readBank_completes (b := .cram) h
  | wr8Ram a v => exact writeBank_completes (b := .ram) (d := .b8 v) h
  | wr16Ram a v => exact writeBank_completes (b := .ram) (d := .b16 v) h
  | wr32Ram a v => exact writeBank_completes (b := .ram) (d := .b32 v) h
  | wr64Ram a v => exact writeBank_completes (b := .ram) (d := .b64 v) h
  | wr8Cram a v => exact writeBank_completes (b := .cram) (d := .b8 v) h
  | wr16Cram a v => exact writeBank_completes (b := .cram) (d := .b16 v) h
  | wr32Cram a v => exact writeBank_completes (b := .cram) (d := .b32 v) h
  | wr64Cram a v => exact writeBank_completes (b := .cram) (d := .b64 v) h
  | wr8Dev a v => exact writeDevice_completes (d := .b8 v) h
  | wr16Dev a v => exact writeDevice_completes (d := .b16 v) h
  | wr32Dev a v => exact writeDevice_completes (d := .b32 v) h
  | wr64Dev a v => exact writeDevice_completes (d := .b64 v) h
  | rd8Dev a | rd16Dev a | rd32Dev a | rd64Dev a | rd8Unmapped a | rd16Unmapped a | rd32Unmapped a | rd64Unmapped a
  | rd8DmaBadaccess a | rd16DmaBadaccess a | rd32DmaBadaccess a | rd64DmaBadaccess a | rd32DmaReservedHigh a =>
    exact readDraw_completes h
  | wr8Unmapped a v | wr16Unmapped a v | wr32Unmapped a v | wr64Unmapped a v | wr8DmaBadaccess a v
  | wr16DmaBadaccess a v | wr32DmaBadaccess a v | wr64DmaBadaccess a v | wr32DmaReservedHigh a v =>
    exact writeDiscard_completes h
  | rd32DmaReservedSlot c | wr32DmaReservedSlot c v => exact ⟨_, rfl⟩
  | rd32ChAddr c | rd32ChBcr c | rd32ChCtrl c | rd32Dpcr | rd32Dpcr2 | rd32Dicr | rd32Dicr2 => exact ⟨_, rfl⟩
  | wr32ChAddr c v | wr32ChBcr c v | wr32ChCtrl c v | wr32Dpcr v | wr32Dpcr2 v | wr32Dicr v | wr32Dicr2 v =>
    exact ⟨_, rfl⟩
  | tick | reset | intack | unitBurst c dir | unitBlock c dir | unitList c dir | unitReserved c dir | tagLast c len
  | tagLink c len next => cases hi

/-- The reserved sync mode is the one that has no unit of work (R104, R108). -/
theorem runUnit_completes {s : State} {c : ChannelIx} (h : ctrlSync s.ch[c].ctrl ≠ .reserved) :
    ∃ t, runUnit c s = .next t := by
  unfold runUnit
  cases hm : ctrlSync s.ch[c].ctrl with
  | burst | block | list => exact ⟨_, rfl⟩
  | reserved => exact absurd hm h

/-- A tick is refused only for a winner, which is Active, in the reserved sync mode. -/
theorem exec_tick_completes {s : State} (h : s.noReservedActive) : ∃ t, exec .tick s = .next t := by
  cases hw : winner s with
  | none => exact ⟨_, exec_tick_idle hw⟩
  | some c =>
    rw [exec_tick_winner hw]
    exact runUnit_completes (s := s.answerWith none) (h c (winner_busy hw))

/-- A PORT operation completes: RESET and INTACK in every state. -/
theorem exec_port_completes {s : State} {i : Instr} (hi : i.format = .port) (h : s.noReservedActive) :
    ∃ t, exec i s = .next t := by
  cases i with
  | tick => exact exec_tick_completes h
  | reset | intack => exact ⟨_, rfl⟩
  | _ => cases hi

/-- Settles O37: the environment applies the operations of two formats; a bus access is stopped only by its operands, a PORT
operation only by the reserved sync mode. -/
theorem everyOperationCompletes : Obligations.EveryOperationCompletes := by
  intro s i henv hwf hmode
  rw [ofEnvironment, Bool.or_eq_true, decide_eq_true_eq, decide_eq_true_eq] at henv
  exact henv.elim (fun hbus => exec_bus_completes hbus hwf) (fun hport => exec_port_completes hport hmode)

/-! ## The status of an access (R122, R126) -/

/-- What the status of an access of width `w` says of its region `r`. -/
def StatusFollows (r : Region) (w : Width) (st : Status) : Prop :=
  (st = .unmapped ↔ r = .unmapped) ∧ (st = .reject → r = .dma) ∧ (st = .ok → w = .w32 ∨ r ≠ .dma)

/-- The status that an access answers where it reaches no register (`byteStatus`) follows its region. -/
theorem statusFollows_byteStatus (r : Region) (w : Width) : StatusFollows r w (byteStatus r) := by
  cases r <;> simp [StatusFollows, byteStatus]

/-- In the DMA window a 32-bit access may answer `OK` or `REJECT`. -/
theorem statusFollows_register {r : Region} {st : Status} (hr : r = .dma) (h : st ≠ .unmapped) :
    StatusFollows r .w32 st := by
  subst hr
  exact ⟨⟨fun hu => absurd hu h, nofun⟩, fun _ => rfl, fun _ => .inl rfl⟩

/-- The operation answers a read of width `w` with the status, and changes nothing but the answer and the draws taken. -/
def AnswersRead (s : State) (i : Instr) (w : Width) (st : Status) : Prop :=
  ∃ (d : BusData) (draws : Nat),
    exec i s = .next { s with draws := draws, answer := some (.read st d) } ∧ d.width = w

/-- The operation answers a write with the status, and changes nothing but the answer unless the status is `OK`. -/
def AnswersWrite (s : State) (i : Instr) (st : Status) : Prop :=
  ∃ t : State, exec i s = .next t ∧ t.answer = some (.write st) ∧ (st ≠ .ok → t = { s with answer := some (.write st) })

theorem AnswersRead.of_readBank {s : State} {i : Instr} {b : Bank} {w : Width} {a : Word}
    (hi : exec i s = readBank b w a s) (hr : region s.cfg a w.bytes = b.region) : AnswersRead s i w .ok :=
  ⟨_, s.draws, hi.trans (readBank_inside hr), BusData.ofNat_width w _⟩

theorem AnswersRead.of_readDraw {s : State} {i : Instr} {isRow : Bool} {w : Width} {st : Status}
    (hi : exec i s = readDraw isRow st w s) (hrow : isRow = true) : AnswersRead s i w st :=
  ⟨_, s.draws + 1, hi.trans (if_pos hrow), BusData.ofNat_width w _⟩

theorem AnswersRead.of_readRegister {s : State} {i : Instr} {v : Word} (hi : exec i s = readRegister v s) :
    AnswersRead s i .w32 .ok := ⟨.b32 v, s.draws, hi, rfl⟩

/-- A write that is performed answers `OK`. -/
theorem AnswersWrite.of_performed {s u : State} {i : Instr} (hi : exec i s = .next (u.answerWith (some (.write .ok)))) :
    AnswersWrite s i .ok := ⟨_, hi, rfl, fun h => absurd rfl h⟩

theorem AnswersWrite.of_writeDiscard {s : State} {i : Instr} {isRow : Bool} {st : Status}
    (hi : exec i s = writeDiscard isRow st s) (hrow : isRow = true) : AnswersWrite s i st :=
  ⟨_, hi.trans (if_pos hrow), rfl, fun _ => rfl⟩

/-- An access of the DMA window that reaches no register is one of a BADACCESS row (R97, R98). -/
theorem badAccess_of_not_toRegister {cfg : Config} {x : Transaction} (hr : region cfg x.addr x.width.bytes = .dma)
    (hx : ¬ x.toRegister cfg) : badAccess cfg x.width x.addr = true :=
  (x.wellFormed_regionRow_dma cfg).symm.trans ((x.wellFormed_regionRow cfg .dma).mpr ⟨hr, hx⟩)

/-- A read that reaches no register answers the status of its region. -/
theorem answersRead_region {s : State} {w : Width} {a : Word} (hx : ¬ (Transaction.read w a).toRegister s.cfg) :
    AnswersRead s (decodeRead s.cfg w a) w (byteStatus (region s.cfg a w.bytes)) := by
  have hrow : decodeRead s.cfg w a = readRow (region s.cfg a w.bytes) w a := Transaction.row_eq_regionRow hx
  rw [hrow]
  cases hr : region s.cfg a w.bytes with
  | ram => exact .of_readBank (exec_readRow_bank .ram w a s) hr
  | cram => exact .of_readBank (exec_readRow_bank .cram w a s) hr
  | dev => exact .of_readDraw (exec_readRow_dev w a s) (decide_eq_true hr)
  | dma => exact .of_readDraw (exec_readRow_dma w a s) (badAccess_of_not_toRegister (x := .read w a) hr hx)
  | unmapped => exact .of_readDraw (exec_readRow_unmapped w a s) (decide_eq_true hr)

/-- A write that reaches no register answers the status of its region. -/
theorem answersWrite_region {s : State} {a : Word} {d : BusData} (hx : ¬ (Transaction.write a d).toRegister s.cfg) :
    AnswersWrite s (decodeWrite s.cfg a d) (byteStatus (region s.cfg a d.width.bytes)) := by
  have hrow : decodeWrite s.cfg a d = writeRow (region s.cfg a d.width.bytes) a d := Transaction.row_eq_regionRow hx
  rw [hrow]
  cases hr : region s.cfg a d.width.bytes with
  | ram => exact .of_performed ((exec_writeRow_bank .ram a d s).trans (writeBank_inside hr))
  | cram => exact .of_performed ((exec_writeRow_bank .cram a d s).trans (writeBank_inside hr))
  | dev => exact .of_performed ((exec_writeRow_dev a d s).trans (if_pos hr))
  | dma => exact .of_writeDiscard (exec_writeRow_dma a d s) (badAccess_of_not_toRegister (x := .write a d) hr hx)
  | unmapped => exact .of_writeDiscard (exec_writeRow_unmapped a d s) (decide_eq_true hr)

/-! The rows of the register map: the last word of a slot and the offsets above the packed registers are reserved (R95, R96). -/

/-- The status of the word of a channel's slot (R54). -/
def slotStatus (k : Fin 4) : Status := if k = 3 then .reject else .ok

theorem answersRead_slot (s : State) (c : ChannelIx) (k : Fin 4) :
    AnswersRead s (RegisterAccess.read.slotRow c k) .w32 (slotStatus k) := by
  fin_cases k
  · exact .of_readRegister (v := s.ch[c].addr) rfl
  · exact .of_readRegister (v := s.ch[c].bcr) rfl
  · exact .of_readRegister (v := s.ch[c].ctrl) rfl
  · exact .of_readDraw (isRow := true) rfl rfl

theorem answersWrite_slot (s : State) (c : ChannelIx) (v : Word) (k : Fin 4) :
    AnswersWrite s ((RegisterAccess.write v).slotRow c k) (slotStatus k) := by
  fin_cases k
  · exact .of_performed (u := s.setAddr c v) rfl
  · exact .of_performed (u := s.setBcr c v) rfl
  · exact .of_performed (u := s.setCtrl c v) rfl
  · exact .of_writeDiscard (isRow := true) rfl rfl

theorem answersRead_packed (s : State) (k : Fin 4) : AnswersRead s (RegisterAccess.read.packedRow k) .w32 .ok := by
  fin_cases k
  · exact .of_readRegister (v := packPriority 0 s.prio s.en) rfl
  · exact .of_readRegister (v := packInterrupt 0 s.ie s.iflag s.mie) rfl
  · exact .of_readRegister (v := packPriority 1 s.prio s.en) rfl
  · exact .of_readRegister (v := packInterrupt 1 s.ie s.iflag s.mie) rfl

theorem answersWrite_packed (s : State) (v : Word) (k : Fin 4) :
    AnswersWrite s ((RegisterAccess.write v).packedRow k) .ok := by
  fin_cases k
  · exact .of_performed (u := writePriority 0 v s) rfl
  · exact .of_performed (u := writeInterrupt 0 v s) rfl
  · exact .of_performed (u := writePriority 1 v s) rfl
  · exact .of_performed (u := writeInterrupt 1 v s) rfl

/-- The row of an access that reaches the registers, by the ranges of R54 (under any configuration). -/
theorem registerRow_cases {cfg : Config} {r : RegisterAccess} {a : Word} (h : (r.transaction a).toRegister cfg) :
    (∃ (c : ChannelIx) (k : Fin 4), (r.transaction a).row cfg = r.slotRow c k) ∨
      (∃ k : Fin 4, (r.transaction a).row cfg = r.packedRow k) ∨
      ((r.transaction a).row cfg = r.highRow a ∧ reservedHigh cfg a = true) := by
  obtain ⟨hr, h4⟩ := (r.toRegister_iff a).mp h
  have hlt : dmaOffset cfg a < 512 := by
    have := region_dma hr
    unfold dmaOffset
    omega
  rw [RegisterAccess.row_transaction h]
  obtain ⟨c, k, ho⟩ | ⟨k, ho⟩ | ho := RegisterAccess.offset_cases hlt h4
  · exact .inl ⟨c, k, by rw [ho, RegisterAccess.row_slot]⟩
  · exact .inr (.inl ⟨k, by rw [ho, RegisterAccess.row_packed]⟩)
  · exact .inr (.inr ⟨r.row_high a ho, (reservedHigh_iff cfg a).mpr ⟨hr, h4, ho⟩⟩)

theorem slotStatus_ne_unmapped (k : Fin 4) : slotStatus k ≠ .unmapped := by
  revert k
  decide

/-- A read that reaches the registers is performed or rejected. -/
theorem answersRead_register {s : State} {a : Word} (h : (Transaction.read .w32 a).toRegister s.cfg) :
    ∃ st, st ≠ .unmapped ∧ AnswersRead s (decodeRead s.cfg .w32 a) .w32 st := by
  change ∃ st, st ≠ .unmapped ∧ AnswersRead s ((RegisterAccess.read.transaction a).row s.cfg) .w32 st
  obtain ⟨c, k, hrow⟩ | ⟨k, hrow⟩ | ⟨hrow, hhigh⟩ := registerRow_cases (r := .read) h <;> rw [hrow]
  · exact ⟨_, slotStatus_ne_unmapped k, answersRead_slot s c k⟩
  · exact ⟨.ok, by decide, answersRead_packed s k⟩
  · exact ⟨.reject, by decide, .of_readDraw rfl hhigh⟩

/-- A write that reaches the registers is performed or rejected. -/
theorem answersWrite_register {s : State} {a v : Word} (h : (Transaction.write a (.b32 v)).toRegister s.cfg) :
    ∃ st, st ≠ .unmapped ∧ AnswersWrite s (decodeWrite s.cfg a (.b32 v)) st := by
  change ∃ st, st ≠ .unmapped ∧ AnswersWrite s (((RegisterAccess.write v).transaction a).row s.cfg) st
  obtain ⟨c, k, hrow⟩ | ⟨k, hrow⟩ | ⟨hrow, hhigh⟩ := registerRow_cases (r := .write v) h <;> rw [hrow]
  · exact ⟨_, slotStatus_ne_unmapped k, answersWrite_slot s c v k⟩
  · exact ⟨.ok, by decide, answersWrite_packed s v k⟩
  · exact ⟨.reject, by decide, .of_writeDiscard rfl hhigh⟩

theorem decodeRead_answers (s : State) (w : Width) (a : Word) :
    ∃ st, StatusFollows (region s.cfg a w.bytes) w st ∧ AnswersRead s (decodeRead s.cfg w a) w st := by
  by_cases hx : (Transaction.read w a).toRegister s.cfg
  · have ⟨hr, hw, _⟩ := hx
    obtain rfl : w = .w32 := hw
    obtain ⟨st, hst, hans⟩ := answersRead_register hx
    exact ⟨st, statusFollows_register hr hst, hans⟩
  · exact ⟨_, statusFollows_byteStatus _ w, answersRead_region hx⟩

theorem decodeWrite_answers (s : State) (a : Word) (d : BusData) :
    ∃ st, StatusFollows (region s.cfg a d.width.bytes) d.width st ∧ AnswersWrite s (decodeWrite s.cfg a d) st := by
  by_cases hx : (Transaction.write a d).toRegister s.cfg
  · obtain ⟨v, rfl⟩ : ∃ v, d = .b32 v := by
      obtain ⟨-, hw, -⟩ := hx
      cases d with
      | b32 v => exact ⟨v, rfl⟩
      | _ => cases hw
    have ⟨hr, _, _⟩ := hx
    obtain ⟨st, hst, hans⟩ := answersWrite_register hx
    exact ⟨st, statusFollows_register hr hst, hans⟩
  · exact ⟨_, statusFollows_byteStatus _ d.width, answersWrite_region hx⟩

/-- Settles O38: an access that reaches no register answers the status of its region, one that does is performed or rejected;
the shared operation of its row says what it changes. -/
theorem accessStatusFollowsTheDecode : Obligations.AccessStatusFollowsTheDecode := by
  refine ⟨fun s w a => ?_, fun s a d => ?_⟩
  · obtain ⟨st, ⟨hunmapped, hreject, hok⟩, data, draws, hexec, hwidth⟩ := decodeRead_answers s w a
    exact ⟨st, data, draws, hexec, hwidth, hunmapped, hreject, hok⟩
  · obtain ⟨st, ⟨hunmapped, hreject, hok⟩, t, hexec, hans, hkept⟩ := decodeWrite_answers s a d
    exact ⟨st, t, hexec, hans, hunmapped, hreject, hok, hkept⟩

/-! ## What raises a signal (R125) -/

/-- Between `s` and `t` the line does not rise and the history gains no signal. -/
def RaisesNothing (s t : State) : Prop :=
  (t.pending = true → s.pending = true) ∧ ∃ added : List Event, t.events = added ++ s.events ∧ Event.intSignal ∉ added

theorem RaisesNothing.of_unchanged {s t : State} (hp : t.pending = s.pending) (he : t.events = s.events) :
    RaisesNothing s t := ⟨fun h => hp ▸ h, [], he, List.not_mem_nil⟩

/-- What the engine announces is no signal (R109). -/
theorem RaisesNothing.of_announced {s t : State} (ha : Announced s t) (hp : t.pending = s.pending) : RaisesNothing s t := by
  obtain ⟨added, he, hquiet, -⟩ := ha
  exact ⟨fun h => hp ▸ h, added, he, fun hm => (hquiet _ hm).1 rfl⟩

/-- A write of 0 to the sink records at most the fall of the level (R118, R136). -/
theorem RaisesNothing.of_setPending_low (s : State) : RaisesNothing s (s.setPending false) :=
  ⟨nofun, irqRecord s.pending false, rfl, fun hm => nomatch (mem_irqRecord.mp hm).2⟩

/-- Between `s` and `t` channel `c` completes, with its own enable and the master enable set before, and the line is high
after (R111, R125). -/
structure CompletesEnabled (s t : State) (c : ChannelIx) : Prop where
  ie : s.ie[c] = true
  mie : s.mie = true
  busy : ctrlBusy s.ch[c].ctrl = true
  idle : ctrlBusy t.ch[c].ctrl = false
  flagged : t.iflag[c] = true
  high : irqOut t = true

/-- A unit of work that completes its channel raises a signal exactly where both enables are set (R111). -/
theorem UnitBody.complete_signal_cases {s u : State} {c : ChannelIx} (hw : winner s = some c)
    (hu : UnitBody c (s.answerWith none) u) :
    RaisesNothing s (complete c u) ∨ CompletesEnabled s (complete c u) c := by
  obtain ⟨hc, hevents⟩ := (hu.unitActive.ends_complete trivial).completes trivial
  by_cases hboth : (s.ie[c] && s.mie) = true
  · obtain ⟨hie, hmie⟩ := Bool.and_eq_true_iff.mp hboth
    exact .inr ⟨hie, hmie, winner_busy hw, hc.idle, hc.flagged, by rw [irqOut, hc.sink, hboth, Bool.or_true]⟩
  · have hsink : (complete c u).pending = s.pending := by
      rw [hc.sink, Bool.eq_false_iff.mpr hboth, Bool.or_false]
    rw [completionEvents, if_neg hboth, List.nil_append] at hevents
    obtain ⟨added, he, hquiet, -⟩ := hu.announced
    exact .inl ⟨fun h => hsink ▸ h, added, hevents.trans he, fun hm => (hquiet _ hm).1 rfl⟩

/-- Every operation raises nothing or completes a channel with both enables set. -/
theorem Effect.signal_cases {s t : State} {i : Instr} (h : Effect s i t) :
    RaisesNothing s t ∨ ∃ c, CompletesEnabled s t c := by
  cases h with
  | stored b a d hi hr => exact .inl ⟨fun h => by simpa using h, [.invalidate a d.width.bytes], by simp, by simp⟩
  | forwarded a d hi => exact .inl ⟨id, [.devRegWrite a d], rfl, by simp⟩
  | worked c u hw hi hu => exact .inl (.of_announced hu.announced hu.pending)
  | completed c u hw hi hu => exact (hu.complete_signal_cases hw).imp_right fun hc => ⟨c, hc⟩
  | wasReset hi => exact .inl (.of_setPending_low s)
  | acknowledged hi => exact .inl (.of_setPending_low s)
  | _ => exact .inl (.of_unchanged (by simp) (by simp))

/-- What a step does to the signals is what its operation does: none of this is in the schedule. -/
theorem step_signal_cases {s t : State} (h : step s = .next t) : RaisesNothing s t ∨ ∃ c, CompletesEnabled s t c := by
  rcases step_effect h with ⟨-, rfl⟩ | ⟨x, rest, i, -, he⟩
  · exact .inl (.of_unchanged rfl rfl)
  · exact he.signal_cases.imp id fun ⟨c, hc⟩ => ⟨c, hc.ie, hc.mie, hc.busy, hc.idle, hc.flagged, hc.high⟩

/-- Settles O44: a step that raises nothing is excluded by either premise, so it completes a channel with both enables set. -/
theorem signalNeedsBothEnables : Obligations.SignalNeedsBothEnables := by
  intro s t h hraise
  rcases step_signal_cases h with ⟨hlevel, added, he, hnone⟩ | ⟨c, hc⟩
  · exfalso
    rcases hraise with ⟨hlow, hhigh⟩ | ⟨added', he', hsignal⟩
    · exact Bool.false_ne_true (hlow.symm.trans (hlevel hhigh))
    · exact hnone (List.append_cancel_right (he.symm.trans he') ▸ hsignal)
  · exact ⟨c, hc.ie, hc.mie, hc.busy, hc.idle, hc.flagged, hc.high⟩

end Sys2Proof.Machine
end

section
/-! The family of spec/70_reset_and_hazards.md: a linked list without end, late enables, and the state after a reset. An idle
tick is said once (`runTicks_idle`) for the late enables and for the reset; what a reset leaves is said once (`AfterReset`) for
the power-on state and for RESET. -/

namespace Sys2Proof.Machine

/-! ## A linked list without end (R144) -/

/-- The four bytes at `a` are in RAM or CRAM, each in the memory that `bank` names, and are the tag word `tag` (R62). -/
def HoldsTag (s : State) (bank : Nat → Bank) (a tag : Word) : Prop :=
  ∀ i, i < 4 → region s.cfg (transferAddress a i) 1 = (bank i).region ∧
    s.byteAt (bank i) (bankOffset s.cfg (bank i) (transferAddress a i)) = tag.extractLsb' (8 * i) 8

theorem HoldsTag.of_unchanged {s t : State} {bank : Nat → Bank} {a tag : Word} (h : HoldsTag s bank a tag)
    (hcfg : t.cfg = s.cfg) (hbytes : ∀ b o, t.byteAt b o = s.byteAt b o) : HoldsTag t bank a tag := by
  simpa only [HoldsTag, hcfg, hbytes] using h

/-- A transfer to the device, or of no bytes, stores nothing (R109). -/
theorem MovedBytes.byteAt_of_no_store {s t : State} {c : ChannelIx} {a : Word} {n : Nat} {dir : Direction}
    {moved : List Event} (h : MovedBytes s t c a n dir moved) (hstore : dir = .toDevice ∨ n = 0) (b : Bank) (o : Nat) :
    t.byteAt b o = s.byteAt b o := by
  cases dir with
  | fromDevice =>
    obtain ⟨-, hkept, -, -⟩ := h
    obtain rfl : n = 0 := hstore.resolve_left nofun
    exact hkept b o fun ⟨_, hi, _⟩ => Nat.not_lt_zero _ hi
  | toDevice =>
    obtain ⟨hkept, -, -⟩ := h
    exact hkept b o

/-- Between `s` and `t` channel `c` has followed links to an address that `node` holds of: it has not completed, and neither
memory nor anything of another channel has changed. -/
structure FollowsLinks (c : ChannelIx) (node : Word → Prop) (s t : State) : Prop where
  frame : EngineFrame s t c
  active : StaysActive s t c
  bcr : t.ch[c].bcr = s.ch[c].bcr
  bytes : ∀ b o, t.byteAt b o = s.byteAt b o
  addr : node t.ch[c].addr

theorem FollowsLinks.refl {c : ChannelIx} {node : Word → Prop} {s : State} (h : node s.ch[c].addr) :
    FollowsLinks c node s s where
  frame := ⟨fun _ _ => rfl, rfl, rfl, rfl, rfl, rfl, rfl, rfl, Nat.le_refl _⟩
  active := ⟨rfl, rfl, rfl⟩
  bcr := rfl
  bytes _ _ := rfl
  addr := h

theorem FollowsLinks.trans {c : ChannelIx} {node node' : Word → Prop} {s u t : State} (h₁ : FollowsLinks c node s u)
    (h₂ : FollowsLinks c node' u t) : FollowsLinks c node' s t where
  frame := h₁.frame.trans h₂.frame
  active := h₁.active.trans h₂.active
  bcr := h₂.bcr.trans h₁.bcr
  bytes b o := (h₂.bytes b o).trans (h₁.bytes b o)
  addr := h₂.addr

theorem FollowsLinks.cfg {c : ChannelIx} {node : Word → Prop} {s t : State} (h : FollowsLinks c node s t) :
    t.cfg = s.cfg := by
  obtain ⟨-, -, -, -, -, hcfg, -⟩ := h.frame
  exact hcfg

/-- A channel that follows links leaves the arbiter its choice (R103, R145). -/
theorem FollowsLinks.winner {c : ChannelIx} {node : Word → Prop} {s t : State} (h : FollowsLinks c node s t) :
    winner t = winner s := winner_of_staysActive h.frame h.active

/-- A tick at a tag in memory that is no terminator, with no payload to store, follows its link (R107). -/
theorem tick_follows_link {s : State} {c : ChannelIx} {bank : Nat → Bank} {tag : Word} (hw : winner s = some c)
    (hm : ctrlSync s.ch[c].ctrl = .list) (htag : HoldsTag s bank s.ch[c].addr tag) (hlink : tagNext tag ≠ terminator)
    (hstore : ctrlDir s.ch[c].ctrl = .toDevice ∨ tagLen tag = 0#8) :
    ∃ t, exec .tick s = .next t ∧ FollowsLinks c (· = nextAddress (tagNext tag)) s t := by
  rw [← tagWord_tagLen_tagNext tag] at htag
  obtain ⟨t, moved, htick, -, hframe, hmoved, hbcr, -, hactive⟩ := tagRowsAreTheTicksNode s c (tagLen tag) (tagNext tag) bank
    hw ((ctrlSync_eq_iff _ .list).mp hm) (fun i hi => (htag i hi).1) (fun i hi => (htag i hi).2)
  obtain ⟨-, haddr, hstays, -⟩ := hactive hlink
  have hnone : ctrlDir s.ch[c].ctrl = .toDevice ∨ 4 * (tagLen tag).toNat = 0 :=
    hstore.imp_right fun hlen => by simp [hlen]
  exact ⟨t, htick, hframe, hstays, hbcr, hmoved.byteAt_of_no_store hnone, haddr.trans (nextAddress_eq _).symm⟩

/-- `node` is a set of nodes closed under the links: each holds a tag in RAM or CRAM that is no terminator, and no payload that
channel `c` would store. -/
def ClosedUnderLinks (s : State) (c : ChannelIx) (node : Word → Prop) (tag : Word → Word) (bank : Word → Nat → Bank) : Prop :=
  ∀ a, node a → tagNext (tag a) ≠ terminator ∧ node (0#8 ++ tagNext (tag a)) ∧
    (ctrlDir s.ch[c].ctrl = .toDevice ∨ tagLen (tag a) = 0#8) ∧ HoldsTag s (bank a) a (tag a)

/-- In a closed set of nodes every run of ticks follows links inside it (R144). -/
theorem runTicks_follows_links {s : State} {c : ChannelIx} {node : Word → Prop} {tag : Word → Word}
    {bank : Word → Nat → Bank} (hw : winner s = some c) (hm : ctrlSync s.ch[c].ctrl = .list) (hstart : node s.ch[c].addr)
    (hclosed : ClosedUnderLinks s c node tag bank) (k : Nat) :
    ∃ t, runTicks k s = .next t ∧ FollowsLinks c node s t := by
  induction k with
  | zero => exact ⟨s, rfl, .refl hstart⟩
  | succ k ih =>
    obtain ⟨u, hrun, hu⟩ := ih
    obtain ⟨hlink, hnext, hstore, htag⟩ := hclosed u.ch[c].addr hu.addr
    rw [← hu.active.ctrl] at hm hstore
    obtain ⟨t, htick, ht⟩ :=
      tick_follows_link (hu.winner.trans hw) hm (htag.of_unchanged hu.cfg hu.bytes) hlink hstore
    have hnode : node t.ch[c].addr := by rwa [ht.addr, nextAddress_eq]
    exact ⟨t, (runTicks_succ hrun).trans htick, hu.trans { ht with addr := hnode }⟩

/-- Settles O30: each tick follows a link inside the closed set, by induction on the number of ticks. -/
theorem loopingListStarvesLowerChannels : Obligations.LoopingListStarvesLowerChannels := by
  intro s c node tag bank k hw hm hstart hclosed
  obtain ⟨t, hrun, h⟩ := runTicks_follows_links hw hm hstart hclosed k
  obtain ⟨hctrl, hiflag, hpending⟩ := h.active
  obtain ⟨hothers, -⟩ := h.frame
  exact ⟨t, hrun, h.winner.trans hw, h.addr, hctrl, h.bcr, hothers, hiflag, hpending⟩

/-! ## Ticks with no eligible channel (R101) -/

@[simp] theorem winner_answerWith (s : State) (ans : Option Answer) : winner (s.answerWith ans) = winner s :=
  winner_congr rfl fun _ => rfl

/-- Ticks with no eligible channel change nothing but the answer. -/
theorem runTicks_idle {s : State} (hw : winner s = none) (k : Nat) : ∃ ans, runTicks k s = .next (s.answerWith ans) := by
  induction k with
  | zero => exact ⟨s.answer, rfl⟩
  | succ k ih =>
    obtain ⟨ans, hrun⟩ := ih
    exact ⟨none, (runTicks_succ hrun).trans (exec_tick_idle ((winner_answerWith s ans).trans hw))⟩

/-! ## Late enables (R146) -/

/-- The arbiter does not read the interrupt registers (R102, R103). -/
@[simp] theorem winner_writeInterrupt (g : Fin 2) (v : Word) (s : State) : winner (writeInterrupt g v s) = winner s :=
  winner_congr (writeInterrupt_prio g v s) fun c => by
    simp only [eligible, writeInterrupt_en, writeInterrupt_ch, writeInterrupt_prio]

/-- Settles O45: the writes leave the sink, the history and the arbiter's choice, so the ticks after them are idle. -/
theorem lateEnableRaisesNothing : Obligations.LateEnableRaisesNothing := by
  intro s v v2 k hw
  obtain ⟨ans, hrun⟩ := runTicks_idle
    (s := (writeInterrupt 1 v2 ((writeInterrupt 0 v s).answerWith (some (.write .ok)))).answerWith (some (.write .ok)))
    (by simpa using hw) k
  exact ⟨_, _, _, rfl, rfl, hrun, by simp, by simp⟩

/-! ## What a reset leaves (R26, R136, R137) -/

/-- Every register, flag, enable and priority of `t` and the sink are 0, and nothing has been written to memory. -/
structure AfterReset (t : State) : Prop where
  ch : ∀ c : ChannelIx, t.ch[c] = ⟨0#32, 0#32, 0#32⟩
  prio : ∀ c : ChannelIx, t.prio[c] = 0#3
  en : ∀ c : ChannelIx, t.en[c] = false
  ie : ∀ c : ChannelIx, t.ie[c] = false
  iflag : ∀ c : ChannelIx, t.iflag[c] = false
  mie : t.mie = false
  pending : t.pending = false
  bank : ∀ b, t.bank b = []

theorem PerChannel.get_replicate {α : Type} (x : α) (c : ChannelIx) : (Vector.replicate 16 x)[c] = x :=
  Vector.getElem_replicate c.isLt

theorem afterReset_reset : AfterReset State.reset where
  ch := PerChannel.get_replicate _
  prio := PerChannel.get_replicate _
  en := PerChannel.get_replicate _
  ie := PerChannel.get_replicate _
  iflag := PerChannel.get_replicate _
  mie := rfl
  pending := rfl
  bank b := by cases b <;> rfl

/-- RESET assigns the power-on values (R136). -/
theorem AfterReset.resetState (s : State) (ans : Option Answer) : AfterReset ((resetState s).answerWith ans) :=
  { afterReset_reset with bank := resetState_bank s }

/-- The power-on state and the state any RESET leaves. -/
theorem afterReset_of_reset {s t : State} (h : t = State.reset ∨ exec .reset s = .next t) : AfterReset t := by
  rcases h with rfl | h
  · exact afterReset_reset
  · cases h
    exact .resetState s none

/-- A byte of a memory that nothing has written is the byte drawn for it (R26, log entry 4). -/
theorem AfterReset.byteAt {t : State} (h : AfterReset t) (b : Bank) (o : Nat) :
    t.byteAt b o = Config.freeByte t.memDraw b o := by
  rw [State.byteAt, h.bank]
  rfl

/-- No channel is enabled after a reset, so none is eligible (R102). -/
theorem AfterReset.winner {t : State} (h : AfterReset t) : winner t = none := by
  refine winner_eq_none_iff.mpr fun c he => ?_
  obtain ⟨hen, -⟩ := eligible_iff.mp he
  exact Bool.false_ne_true ((h.en c).symm.trans hen)

/-- Every bit of DPCR and DPCR2 is of an enable or a priority (R60). -/
theorem AfterReset.packPriority {t : State} (h : AfterReset t) (g : Fin 2) : packPriority g t.prio t.en = 0#32 := by
  apply BitVec.eq_of_getLsbD_eq
  intro k hk
  rw [packPriority_getLsbD g _ _ k hk, h.en, h.prio]
  simp

/-- Every bit of DICR and DICR2 is of a flag or an enable, or is 0 (R61). -/
theorem AfterReset.packInterrupt {t : State} (h : AfterReset t) (g : Fin 2) :
    packInterrupt g t.ie t.iflag t.mie = 0#32 := by
  apply BitVec.eq_of_getLsbD_eq
  intro k hk
  rw [packInterrupt_getLsbD g _ _ _ k hk, h.iflag, h.ie, h.mie]
  simp

/-- Settles O32: RESET's own equation, and the values that the power-on state and RESET share. -/
theorem resetZeroesRegistersAndRedrawsMemory : Obligations.ResetZeroesRegistersAndRedrawsMemory := by
  refine ⟨fun s => ?_, fun s t ht => ?_⟩
  · exact ⟨_, rfl, Nat.lt_succ_self _, congrArg (· ++ s.events) (irqRecord_low s.pending), rfl, rfl, rfl, rfl⟩
  · have h := afterReset_of_reset ht
    exact ⟨fun c => ⟨h.ch c, h.prio c, h.en c, h.ie c, h.iflag c⟩, h.mie, h.pending, h.byteAt⟩

/-- Settles O33: no channel is eligible, and every register and packed view is 0. -/
theorem afterResetTheBlockIsInert : Obligations.AfterResetTheBlockIsInert := by
  intro s t ht
  have h := afterReset_of_reset ht
  refine ⟨fun k => ?ticks, ?packed, fun c => ?channel, h.pending⟩
  case ticks =>
    obtain ⟨ans, hrun⟩ := runTicks_idle h.winner k
    exact ⟨_, hrun, rfl⟩
  case packed =>
    simp only [List.forall_mem_cons, List.not_mem_nil, false_imp_iff, implies_true, and_true]
    exact ⟨⟨_, rfl, State.answer_of_read t (h.packPriority 0)⟩, ⟨_, rfl, State.answer_of_read t (h.packPriority 1)⟩,
      ⟨_, rfl, State.answer_of_read t (h.packInterrupt 0)⟩, ⟨_, rfl, State.answer_of_read t (h.packInterrupt 1)⟩⟩
  case channel =>
    have hch := h.ch c
    simp only [List.forall_mem_cons, List.not_mem_nil, false_imp_iff, implies_true, and_true]
    exact ⟨⟨_, rfl, State.answer_of_read t (congrArg Channel.addr hch)⟩,
      ⟨_, rfl, State.answer_of_read t (congrArg Channel.bcr hch)⟩,
      ⟨_, rfl, State.answer_of_read t (congrArg Channel.ctrl hch)⟩⟩

end Sys2Proof.Machine
end
